-- ==== Sys2Proof/Word.lean ====
section
/-! DEFINITION. The two word types of the block: 8-bit data (R5, R6, R28) and 18-bit command words (R38). -/

namespace Sys2Proof

/-- Every register, operand and response: 8 bits, unsigned, bit 7 the most significant (R6, R28). -/
abbrev Byte := BitVec 8

/-- A command word of format C: 18 bits, bit 17 the most significant (R38). -/
abbrev CommandWord := BitVec 18

end Sys2Proof
end

