-- ==== Sys2Proof/Syntax.lean ====
section
/-! DEFINITION. The four commands (R41), the expansion of the pseudo-instruction CRCBUF (R46), and the names of the
errors an ill-formed word or line of assembly is rejected with. -/

namespace Sys2Proof

/-- The commands of the block: one constructor per row of spec/opcode_table.json (R41). -/
inductive Instr where
  /-- RESULT (R56): respond with CRC. -/
  | result
  /-- UPDATE b (R55): fold the input byte into CRC. -/
  | update (b : Byte)
  /-- RESET (R49): set CRC back to INIT. -/
  | reset
  /-- CONSTRUCT p, i (R48): bind the polynomial and the initial value. -/
  | construct (p i : Byte)
  deriving DecidableEq, Repr

/-- Is the command a CONSTRUCT, the only one that executes while VALID is 0 (R68)? -/
def Instr.isConstruct : Instr → Bool
  | .result => false
  | .update _ => false
  | .reset => false
  | .construct _ _ => true

/-- `CRCBUF b1, ..., bn` (R46): RESET, one UPDATE per byte, RESULT. A pseudo-instruction, not a fifth command. -/
def Instr.crcbuf (bs : List Byte) : List Instr := .reset :: bs.map .update ++ [.result]

/-- Why a number is no command word. -/
inductive WordError where
  /-- The number does not fit the 18 wires of the command channel (R26, R38). Safe: no such word can be sent. -/
  | notEighteenBits
  deriving DecidableEq, Repr

/-- Why a line is no line of the assembler (R45). An assembly error is no command and reaches no block.
R45 names only the operand outside 0 to 255: the other errors and their names are the model's (DESIGN CHOICE, log 7). -/
inductive AsmError where
  /-- The first word of the line is none of CONSTRUCT, RESET, UPDATE, RESULT, CRCBUF. -/
  | unknownMnemonic
  /-- The number of operands is not the mnemonic's. -/
  | operandCount
  /-- An operand is not an unsigned decimal number, nor a hexadecimal one with the prefix `0x`. -/
  | notANumber
  /-- "An operand outside 0 to 255 is an assembly error, not a command." -/
  | operandOutOfRange
  deriving DecidableEq, Repr

end Sys2Proof
end

