-- ==== Sys2Proof/WellFormed.lean ====
section
/-! DEFINITION. Well-formedness. Every term of `Instr` is a legal command, since every value of every 8-bit operand is
legal (R40, R43); what can be ill formed is a number offered as a command word (R38) or as an operand (R45). -/

namespace Sys2Proof

/-- Every command is well formed: "Every one of the 256 values of each operand is legal" (R40). -/
def Instr.wellFormed : Instr → Bool
  | .result => true
  | .update _ => true
  | .reset => true
  | .construct _ _ => true

/-- A number that is a command word: it fits 18 bits (R38). -/
def wellFormedWord (w : Nat) : Bool := decide (w < 2 ^ 18)

/-- A number that is an operand: 0 to 255 (R45). -/
def wellFormedOperand (v : Nat) : Bool := decide (v < 256)

end Sys2Proof
end

