-- ==== Sys2Proof/Decode.lean ====
section
/-! DEFINITION. The decoder (R39, R41, R44), total on 18-bit words, and the encoder of canonical words (R41, R42). The
command word is an 18-bit unit that the spec does not serialise into bytes (R30, D15), so there is no byte order here. -/

namespace Sys2Proof

/-- `op = cmd[17:16]` (R39). -/
def opField (w : CommandWord) : BitVec 2 := w.extractLsb' 16 2

/-- `A = cmd[15:8]`, the first operand, with no extension, scaling or shifting (R39, R40). -/
def operandA (w : CommandWord) : Byte := w.extractLsb' 8 8

/-- `B = cmd[7:0]`, the second operand (R39, R40). -/
def operandB (w : CommandWord) : Byte := w.extractLsb' 0 8

/-- R44: the case on the two bits of `op`. Every 18-bit word spells exactly one command (R43). -/
def decode (w : CommandWord) : Instr :=
  match w.getLsbD 17, w.getLsbD 16 with
  | false, false => .result
  | false, true => .update (operandA w)
  | true, false => .reset
  | true, true => .construct (operandA w) (operandB w)

/-- Decoding of any number: one that does not fit 18 bits is no word of format C (R38) and is rejected by name. -/
def decodeNat (w : Nat) : Except WordError Instr :=
  if wellFormedWord w then .ok (decode (BitVec.ofNat 18 w)) else .error .notEighteenBits

/-- The command this decoder reads from a word numbered as spec/opcode_table.json numbers it (bit 17 the most
significant). Every row has all its 18 bits in the table, so the width the table gives is not needed. -/
def decodeTableWord (_nbits w : Nat) : Option Instr := (decodeNat w).toOption

/-- The value of `op` for each command (R41). -/
def opcode : Instr → BitVec 2
  | .result => 0b00#2
  | .update _ => 0b01#2
  | .reset => 0b10#2
  | .construct _ _ => 0b11#2

/-- The canonical word of a command: `op`, A, B in that order from bit 17 down, every ignored bit 0 (R41, R42). -/
def encode (i : Instr) : CommandWord :=
  match i with
  | .result => opcode i ++ 0#8 ++ 0#8
  | .update b => opcode i ++ b ++ 0#8
  | .reset => opcode i ++ 0#8 ++ 0#8
  | .construct p j => opcode i ++ p ++ j

/-- The bits marked `x` in the table of R41: those that do not take part in decoding a command's words (R42). -/
def ignoredBits : Instr → CommandWord
  | .result => 0x0FFFF#18
  | .update _ => 0x000FF#18
  | .reset => 0x0FFFF#18
  | .construct _ _ => 0x00000#18

end Sys2Proof
end

