-- ==== Sys2Proof/Config.lean ====
section
/-! DEFINITION. What one implementation fixes and the spec leaves open: free values (R24) and the four timing
parameters (R85, D20). None has a body that Lean could look into, so a statement holds whatever they are. -/

namespace Sys2Proof

/-- What a register that "holds no value" contains (R24): "the model must not assume any bit pattern for them, neither
zero nor any other constant nor "the same unknown value each time"". The argument is the number of the draw, taken from
the counter `State.freeDraws`. DESIGN CHOICE, log 1. -/
opaque Config.noValue : Nat → Byte

/-- Clock cycles of CONSTRUCT beyond the first (R85). -/
opaque Config.extraConstruct : Nat
/-- Clock cycles of RESET beyond the first (R85). -/
opaque Config.extraReset : Nat
/-- Clock cycles of UPDATE beyond the first (R85). -/
opaque Config.extraUpdate : Nat
/-- Clock cycles of RESULT beyond the first (R85). -/
opaque Config.extraResult : Nat

/-- `T_CONSTRUCT` (D20): a positive number of cycles, from acceptance to completion. No rule reads it. Log 5. -/
def Config.tConstruct : Nat := Config.extraConstruct + 1
/-- `T_RESET` (D20). No rule reads it. Log 5. -/
def Config.tReset : Nat := Config.extraReset + 1
/-- `T_UPDATE` (D20). No rule reads it. Log 5. -/
def Config.tUpdate : Nat := Config.extraUpdate + 1
/-- `T_RESULT` (D20): from acceptance to the response. No rule reads it. Log 5. -/
def Config.tResult : Nat := Config.extraResult + 1

end Sys2Proof
end

