-- ==== Sys2Proof/Machine/State.lean ====
section
/-! DEFINITION. Everything the spec gives the block: the three registers and the ghost bit (R10, R14), the command
channel with the hardware reset input (R26, R78), the response channel (R27), as plain data, and the state after a
hardware reset (R24). -/

namespace Sys2Proof.Machine

/-- The three registers of R10. They have no numbers and no addresses; these are their names. -/
inductive Reg where
  /-- POLY, the polynomial (R11). -/
  | poly
  /-- INIT, the initial value (R12). -/
  | init
  /-- CRC, the accumulator (R13). -/
  | crc
  deriving DecidableEq, Repr

/-- What the host does to the block (R87). One event is one step (R8; logs 2, 3, 4). -/
inductive HostEvent where
  /-- The host offers a command word and the block accepts it (R26). -/
  | command (w : CommandWord)
  /-- The host asserts the hardware reset (R78), or power returns (R77). `coinciding` is a command word that was offered
  while reset was asserted, or was in progress when it was asserted, if there was one (R70). -/
  | hardwareReset (coinciding : Option CommandWord)
  /-- The host takes the oldest undelivered response from the response channel (R27). DESIGN CHOICE, log 3. -/
  | takeResponse
  deriving DecidableEq, Repr

/-- The block and its channels. -/
structure State where
  /-- POLY (R11). -/
  poly : Byte
  /-- INIT (R12). -/
  init : Byte
  /-- CRC (R13), the feedback shift register. -/
  crc : Byte
  /-- VALID (R14): a CONSTRUCT has completed since the last hardware reset. -/
  valid : Bool
  /-- The command channel and the hardware reset input (R26, R78): the host's events to come, the next one first. -/
  inputs : List HostEvent
  /-- The response channel (R27): responses not yet delivered, oldest first. -/
  undelivered : List Byte
  /-- The responses the host has taken, oldest first: with `undelivered`, the observation of the run (R86). -/
  delivered : List Byte
  /-- The model's own field, not the spec's: how many free values `Config.noValue` has given (R24, log 1). -/
  freeDraws : Nat
  deriving DecidableEq, Repr

/-- The exceptions of the block. "The set of exception causes is empty" (R67): nothing raises a fault. -/
inductive Fault where
  deriving DecidableEq, Repr

/-- Why the model gives a command no meaning. -/
inductive Refusal where
  /-- An instruction with no meaning yet. Raised by no arm of exec. Safe. -/
  | notModelled (mnemonic : String)
  /-- R68: raised by RESET, UPDATE and RESULT while VALID is 0, when each would read a register that holds no value.
  Safe ("toward unprovable"). -/
  | notConstructed
  deriving DecidableEq, Repr

/-- The value a register contains. Commands read registers through `readReg` only, which asks for VALID first. -/
def State.reg (s : State) : Reg → Byte
  | .poly => s.poly
  | .init => s.init
  | .crc => s.crc

/-- The state right after a hardware reset (R24): VALID = 0; POLY, INIT and CRC hold no value, which is three free
values here (DESIGN CHOICE, log 1); nothing offered yet and nothing to deliver (R78, R86). -/
def State.reset : State where
  poly := Config.noValue 0
  init := Config.noValue 1
  crc := Config.noValue 2
  valid := false
  inputs := []
  undelivered := []
  delivered := []
  freeDraws := 3

end Sys2Proof.Machine
end

