-- ==== Sys2Proof/Machine/Operands.lean ====
section
/-! DEFINITION. How a command gets at registers: the one guarded read (R68), and the access table (R18). Operands that
come from the command word are fields of it (Decode.lean, R39, R40). -/

namespace Sys2Proof.Machine

/-- A command reads register `r` and goes on with its value. The refusal is the spec's own: the pseudocode of RESET,
UPDATE and RESULT (R49, R55, R56) begins `if VALID = 0 then refuse(NotConstructed)`, and R68 says that such a step "has
no next state and no response" (also R24 and entry U1 of 93_implementation_defined.md). -/
def readReg (r : Reg) (s : State) (go : Byte → Host.Outcome State Fault Refusal) : Host.Outcome State Fault Refusal :=
  if s.valid then go (s.reg r) else .refused .notConstructed

/-- The column "reads" of the table of R18, for the three registers. -/
def readsOf : Instr → List Reg
  | .result => [.crc]
  | .update _ => [.crc, .poly]
  | .reset => [.init]
  | .construct _ _ => []

/-- The column "writes" of the table of R18, for the three registers. -/
def writesOf : Instr → List Reg
  | .result => []
  | .update _ => [.crc]
  | .reset => [.crc]
  | .construct _ _ => [.poly, .init, .crc]

end Sys2Proof.Machine
end

