-- ==== Sys2Proof/Machine/Flags.lean ====
section
/-! DEFINITION. Flags. The block has none: "No command sets a status bit as a side effect" (R20). The one bit its
computation tests is the feedback bit, which is used and then discarded, never kept (R52, R53). -/

namespace Sys2Proof.Machine

/-- The feedback bit `f = c[7]` (R50, R52): bit 7 of the accumulator as it is before the shift. -/
def feedback (c : Byte) : Bool := c.getLsbD 7

end Sys2Proof.Machine
end

