-- ==== Sys2Proof/Machine/Ops.lean ====
section
/-! DEFINITION. The shared operations: the arithmetic of the engine (R50, R51, R54), the register writes, the two
channels, and the hardware reset event (R78). The block has no memory (R25), takes no exception and returns from none
(R67, R71, R72), so there is no operation for any of those. -/

namespace Sys2Proof.Machine

/-! ### Arithmetic -/

/-- `shl1(v) = (2 * v) mod 256` (R7): one place left, 0 into bit 0, the old bit 7 discarded. -/
def shl1 (v : Byte) : Byte := v <<< 1

/-- R50: shift left by one place and, if the bit leaving was 1, XOR the polynomial in. -/
def lfsrStep (c p : Byte) : Byte := if feedback c then shl1 c ^^^ p else shl1 c

/-- R51: XOR the input byte in once, then exactly eight steps with the same polynomial. -/
def update (c p b : Byte) : Byte :=
  let c0 := c ^^^ b
  let c1 := lfsrStep c0 p
  let c2 := lfsrStep c1 p
  let c3 := lfsrStep c2 p
  let c4 := lfsrStep c3 p
  let c5 := lfsrStep c4 p
  let c6 := lfsrStep c5 p
  let c7 := lfsrStep c6 p
  lfsrStep c7 p

/-- R54: the left fold of `update` over the bytes of a message, in input order. -/
def crc8 (p c : Byte) : List Byte → Byte
  | [] => c
  | b :: rest => crc8 p (update c p b) rest

/-! ### Registers -/

/-- `CRC <- v`. -/
def State.writeCrc (v : Byte) (s : State) : State := { s with crc := v }

/-- The four writes of CONSTRUCT, together (R32, R48). -/
def State.construct (p i : Byte) (s : State) : State := { s with poly := p, init := i, crc := i, valid := true }

/-! ### Channels -/

/-- The events still to come after the one being executed. -/
def State.withInputs (evs : List HostEvent) (s : State) : State := { s with inputs := evs }

/-- `respond(v)`: one 8-bit word on the response channel, behind those already there (R27, R47). -/
def State.respond (v : Byte) (s : State) : State := { s with undelivered := s.undelivered ++ [v] }

/-- The host takes the oldest undelivered response. If there is none, nothing is taken. -/
def State.takeResponse (s : State) : State :=
  match s.undelivered with
  | [] => s
  | v :: rest => { s with undelivered := rest, delivered := s.delivered ++ [v] }

/-! ### The hardware reset -/

/-- HWRESET (R78): VALID is 0, the registers hold no value (three fresh free values, R24, log 1), and any response not
yet delivered is lost. What the host has already taken stays with the host. -/
def State.hwReset (s : State) : State :=
  { s with
    poly := Config.noValue s.freeDraws
    init := Config.noValue (s.freeDraws + 1)
    crc := Config.noValue (s.freeDraws + 2)
    valid := false
    undelivered := []
    freeDraws := s.freeDraws + 3 }

/-- A hardware reset that coincides with a command wins (R70): a command offered meanwhile is not accepted, one in
progress is abandoned without a response, and the state after is the same in either case. -/
def State.hwResetOver (_coinciding : Option CommandWord) (s : State) : State := s.hwReset

end Sys2Proof.Machine
end

