-- ==== Sys2Proof/Machine/Engine.lean ====
section
/-! DEFINITION. The command UPDATE (R55), which runs the bit-serial engine of Ops.lean. -/

namespace Sys2Proof.Machine

/-- UPDATE b (R55): CRC <- update(CRC, POLY, b), written once; no response. -/
def execUpdate (b : Byte) (s : State) : Host.Outcome State Fault Refusal :=
  readReg .crc s fun c => readReg .poly s fun p => .next (s.writeCrc (update c p b))

end Sys2Proof.Machine
end

