-- ==== Sys2Proof/Machine/Lifecycle.lean ====
section
/-! DEFINITION. The lifecycle commands CONSTRUCT (R48) and RESET (R49). -/

namespace Sys2Proof.Machine

/-- CONSTRUCT p, i (R48): executes in every state and reads no register; nothing of the old instance survives. -/
def execConstruct (p i : Byte) (s : State) : Host.Outcome State Fault Refusal := .next (s.construct p i)

/-- RESET (R49): CRC <- INIT; POLY, INIT and VALID stay. -/
def execReset (s : State) : Host.Outcome State Fault Refusal :=
  readReg .init s fun i => .next (s.writeCrc i)

end Sys2Proof.Machine
end

