-- ==== Sys2Proof/Machine/Result.lean ====
section
/-! DEFINITION. The command RESULT (R56). -/

namespace Sys2Proof.Machine

/-- RESULT (R56): exactly one response, the accumulator itself; no register is written. -/
def execResult (s : State) : Host.Outcome State Fault Refusal :=
  readReg .crc s fun c => .next (s.respond c)

end Sys2Proof.Machine
end

