-- ==== Sys2Proof/Machine/Dispatch.lean ====
section
/-! DEFINITION. One arm per command (R41), each one call of its meaning. -/

namespace Sys2Proof.Machine

/-- The meaning of a command in a state. -/
def exec (i : Instr) (s : State) : Host.Outcome State Fault Refusal :=
  match i with
  | .result => Sys2Proof.Machine.execResult s
  | .update b => Sys2Proof.Machine.execUpdate b s
  | .reset => Sys2Proof.Machine.execReset s
  | .construct p j => Sys2Proof.Machine.execConstruct p j s

end Sys2Proof.Machine
end

