-- ==== Sys2Proof/Machine/Step.lean ====
section
/-! DEFINITION. One step of the block and its host (R8, R9): the next event of the host is taken and carried out whole
(R32), in the order the host presents them (R34). -/

namespace Sys2Proof.Machine

/-- One step. A command word is decoded and executed; a hardware reset is R78 and wins over a coinciding command
(R70); the host may take a response (log 3). When the host offers nothing the block is idle and keeps its state (R77,
R86; log 2). -/
def step (s : State) : Host.Outcome State Fault Refusal :=
  match s.inputs with
  | [] => .next s
  | .command w :: rest => exec (decode w) (s.withInputs rest)
  | .hardwareReset coinciding :: rest => .next ((s.withInputs rest).hwResetOver coinciding)
  | .takeResponse :: rest => .next (s.withInputs rest).takeResponse

/-- `s` with the command word `w` as the very next one the host offers (log 2). The channel has 18 wires (R26). -/
def State.withFetchWord (s : State) (_nbits w : Nat) : State :=
  s.withInputs (.command (BitVec.ofNat 18 w) :: s.inputs)

end Sys2Proof.Machine
end

