-- ==== Sys2Proof/Machine/Assembler.lean ====
section
/-! DEFINITION. The assembler of R45 with the pseudo-instruction CRCBUF of R46, from text (a list of characters) to
command words. It is a tool in front of the command channel, not part of the block. -/

namespace Sys2Proof.Machine

/-- The blanks that may stand between the parts of a line: space and tab (DESIGN CHOICE, log 7). -/
def isBlank (c : Char) : Bool := c == ' ' || c == '\t'

/-- A text without the blanks at its two ends. -/
def trim (cs : List Char) : List Char := ((cs.dropWhile isBlank).reverse.dropWhile isBlank).reverse

/-- The value of a digit, hexadecimal letters in either case (log 7). -/
def digitValue (c : Char) : Option Nat :=
  let n := c.toNat
  if 48 ≤ n ∧ n ≤ 57 then some (n - 48)
  else if 65 ≤ n ∧ n ≤ 70 then some (n - 55)
  else if 97 ≤ n ∧ n ≤ 102 then some (n - 87)
  else none

/-- The value of a row of digits in a base, starting from `acc`. -/
def digitsValue (base : Nat) : List Char → Nat → Option Nat
  | [], acc => some acc
  | c :: cs, acc =>
    match digitValue c with
    | none => none
    | some d => if d < base then digitsValue base cs (acc * base + d) else none

/-- An unsigned number "in decimal or in hexadecimal with the prefix `0x`" (R45). -/
def numberValue (cs : List Char) : Option Nat :=
  match cs with
  | [] => none
  | ['0', 'x'] => none
  | '0' :: 'x' :: ds => digitsValue 16 ds 0
  | ds => digitsValue 10 ds 0

/-- One operand: "An operand outside 0 to 255 is an assembly error, not a command" (R45). -/
def parseOperand (cs : List Char) : Except AsmError Byte :=
  match numberValue (trim cs) with
  | none => .error .notANumber
  | some v => if wellFormedOperand v then .ok (BitVec.ofNat 8 v) else .error .operandOutOfRange

/-- The parts of a text between occurrences of a separator. -/
def splitAtChar (sep : Char) : List Char → List (List Char)
  | [] => [[]]
  | c :: cs =>
    if c == sep then [] :: splitAtChar sep cs
    else match splitAtChar sep cs with
      | [] => [[c]]
      | part :: parts => (c :: part) :: parts

/-- Each part an operand. If several are bad, the error of the first is reported (DESIGN CHOICE, log 7). -/
def parseParts : List (List Char) → Except AsmError (List Byte)
  | [] => .ok []
  | part :: parts =>
    match parseOperand part, parseParts parts with
    | .error e, _ => .error e
    | .ok _, .error e => .error e
    | .ok b, .ok bs => .ok (b :: bs)

/-- The operands of a line, "separated by a comma" (R45). -/
def parseOperands (cs : List Char) : Except AsmError (List Byte) :=
  if trim cs = [] then .ok [] else parseParts (splitAtChar ',' cs)

/-- The commands a mnemonic stands for with its operands (R45, R46). The wrong number of operands and an unknown mnemonic
are assembly errors of the model's own naming (DESIGN CHOICE, log 7). -/
def commandsOf (name : List Char) (ops : List Byte) : Except AsmError (List Instr) :=
  if name = "CONSTRUCT".toList then
    match ops with
    | [p, i] => .ok [.construct p i]
    | _ => .error .operandCount
  else if name = "UPDATE".toList then
    match ops with
    | [b] => .ok [.update b]
    | _ => .error .operandCount
  else if name = "RESET".toList then
    match ops with
    | [] => .ok [.reset]
    | _ => .error .operandCount
  else if name = "RESULT".toList then
    match ops with
    | [] => .ok [.result]
    | _ => .error .operandCount
  else if name = "CRCBUF".toList then .ok (Instr.crcbuf ops)
  else .error .unknownMnemonic

/-- One line: "the mnemonic in capitals, then its operands separated by a comma"; "a `;` starts a comment that runs to
the end of the line" (R45). A line with nothing but a comment or blanks is no command, and a line with several
errors is rejected with one: a bad operand before an unknown mnemonic or a wrong number of operands (DESIGN CHOICE,
log 7). -/
def assembleLine (line : List Char) : Except AsmError (List Instr) :=
  let code := trim (line.takeWhile (· != ';'))
  if code = [] then .ok []
  else
    match parseOperands (code.dropWhile (! isBlank ·)) with
    | .error e => .error e
    | .ok ops => commandsOf (code.takeWhile (! isBlank ·)) ops

/-- The lines of a program, in order. An error in a line rejects the whole text, with the error of the first bad line:
the spec does not say what an assembly error does to the lines around it (DESIGN CHOICE, log 7). -/
def assembleLines : List (List Char) → Except AsmError (List Instr)
  | [] => .ok []
  | line :: lines =>
    match assembleLine line, assembleLines lines with
    | .error e, _ => .error e
    | .ok _, .error e => .error e
    | .ok is, .ok rest => .ok (is ++ rest)

/-- The commands of a program, "One command per line" (R45). -/
def assemble (text : List Char) : Except AsmError (List Instr) := assembleLines (splitAtChar '\n' text)

/-- The words of a program: the assembler emits canonical words (R42). -/
def assembleWords (text : List Char) : Except AsmError (List CommandWord) :=
  match assemble text with
  | .error e => .error e
  | .ok is => .ok (is.map encode)

/-! ### Listing: the assembly of a command as the tables of the spec print it -/

/-- A hexadecimal digit in capitals. -/
def hexDigit (n : Nat) : Char := if n < 10 then Char.ofNat (48 + n) else Char.ofNat (55 + n)

/-- An operand as `0x` and two digits. -/
def showByte (b : Byte) : List Char := ['0', 'x', hexDigit (b.toNat / 16), hexDigit (b.toNat % 16)]

/-- The line of a command. -/
def showInstr : Instr → List Char
  | .result => "RESULT".toList
  | .update b => "UPDATE ".toList ++ showByte b
  | .reset => "RESET".toList
  | .construct p i => "CONSTRUCT ".toList ++ showByte p ++ ", ".toList ++ showByte i

/-- The listing of a program: each line with a line break after it. -/
def listing : List Instr → List Char
  | [] => []
  | i :: is => showInstr i ++ '\n' :: listing is

end Sys2Proof.Machine
end

