-- ==== Sys2Proof/Safety.lean ====
section
/-! DEFINITION. The terms statements use: the observation of a run (R86), a host that sends a list of commands (R26),
the host's duty to construct first (R79), and the two relations "the same engine" and "the same but for registers that
hold no value" (R24). -/

namespace Sys2Proof.Machine

/-- `k` steps of the block, stopping at the first refusal (R68, R86). `run_eq_core_run` (Laws/Step.lean) says it is the
host's `Core.run` of this machine. -/
def run : Nat → State → Host.Outcome State Fault Refusal
  | 0, s => .next s
  | k + 1, s =>
    match step s with
    | .next t => run k t
    | .fault e => .fault e
    | .refused r => .refused r

/-- The left-to-right fold of the per-command rules over a sequence of commands (R34), up to a refusal. -/
def execAll : List Instr → State → Host.Outcome State Fault Refusal
  | [], s => .next s
  | i :: is, s =>
    match exec i s with
    | .next t => execAll is t
    | .fault e => .fault e
    | .refused r => .refused r

/-- The next state, where there is one. -/
def nextOf : Host.Outcome State Fault Refusal → Option State
  | .next s => some s
  | .fault _ => none
  | .refused _ => none

/-- Is the outcome the refusal of R68? -/
def isNotConstructed : Host.Outcome State Fault Refusal → Bool
  | .next _ => false
  | .fault _ => false
  | .refused r => decide (r = .notConstructed)

/-- "the observation of a run is the sequence of its responses, one per RESULT, in order" (R86): those the host has
taken and then those on their way. -/
def State.observation (s : State) : List Byte := s.delivered ++ s.undelivered

/-- The events of a host that sends these commands, each as its canonical word. -/
def sends (is : List Instr) : List HostEvent := is.map fun i => .command (encode i)

/-- A state whose host will send exactly these commands and then nothing. -/
def State.feed (is : List Instr) (s : State) : State := s.withInputs (sends is)

/-- `UPDATE b` for each byte of a message, in order. -/
def updates (bs : List Byte) : List Instr := bs.map .update

/-- Does the host keep its duty of R79, starting from a block with this value of VALID: after every hardware reset, a
CONSTRUCT before any other command? -/
def constructsFirst : Bool → List HostEvent → Bool
  | _, [] => true
  | v, .command w :: rest => (v || (decode w).isConstruct) && constructsFirst true rest
  | _, .hardwareReset _ :: rest => constructsFirst false rest
  | v, .takeResponse :: rest => constructsFirst v rest

/-- The word is not a CONSTRUCT and the event is no hardware reset: an event within one instance (R21). -/
def HostEvent.withinInstance : HostEvent → Bool
  | .command w => ! (decode w).isConstruct
  | .hardwareReset _ => false
  | .takeResponse => true

/-- The same POLY, INIT, CRC and VALID: the whole architectural state of R10. -/
def sameEngine (s t : State) : Prop := s.poly = t.poly ∧ s.init = t.init ∧ s.crc = t.crc ∧ s.valid = t.valid

/-- Two states that differ at most in registers that hold no value (R24), and in how many free values were drawn. -/
def sameButNoValue (s t : State) : Prop :=
  s.valid = t.valid ∧ s.inputs = t.inputs ∧ s.undelivered = t.undelivered ∧ s.delivered = t.delivered ∧
    (s.valid = true → s.poly = t.poly ∧ s.init = t.init ∧ s.crc = t.crc)

/-- Two outcomes that differ at most so. -/
def sameOutcomeButNoValue : Host.Outcome State Fault Refusal → Host.Outcome State Fault Refusal → Prop
  | .next s, .next t => sameButNoValue s t
  | .refused r, .refused q => r = q
  | .fault e, .fault f => e = f
  | .next _, .refused _ => False
  | .next _, .fault _ => False
  | .refused _, .next _ => False
  | .refused _, .fault _ => False
  | .fault _, .next _ => False
  | .fault _, .refused _ => False

/-- The invariant: a response can only be waiting to be delivered while VALID is 1, since only RESULT responds, RESULT
is refused while VALID is 0 (R68), and a hardware reset loses what is waiting (R78). -/
def State.waitingNeedsEngine (s : State) : Prop := s.valid = false → s.undelivered = []

end Sys2Proof.Machine
end

