-- ==== Sys2Proof/Certificates/Slice0/Obligations.lean ====
section
/-! DEFINITION. The statements for the provers. Each docstring names the rule of spec/ it formalises. No statement rests
on the value of a free value (log 1), and each holds in every state, reachable or not, that meets its hypotheses. -/

open Sys2Proof Sys2Proof.Machine

/-! ### Encoding -/

/-- R39: the three fields of the command word, bit by bit. -/
def Obligations.FieldsOfTheCommandWord : Prop :=
  ∀ w : CommandWord,
    (∀ j < 8, (operandA w).getLsbD j = w.getLsbD (8 + j)) ∧
    (∀ j < 8, (operandB w).getLsbD j = w.getLsbD j) ∧
    (∀ j < 2, (opField w).getLsbD j = w.getLsbD (16 + j)) ∧
    w.toNat = (opField w).toNat * 65536 + (operandA w).toNat * 256 + (operandB w).toNat ∧
    (opField w = 0b00#2 → decode w = .result) ∧
    (opField w = 0b01#2 → decode w = .update (operandA w)) ∧
    (opField w = 0b10#2 → decode w = .reset) ∧
    (opField w = 0b11#2 → decode w = .construct (operandA w) (operandB w))

/-- R41: a word spells the command whose row has `(w and mask) = match`, with the operands of that row, and the
canonical words are the numbers of the table. -/
def Obligations.DecodingFollowsMatchAndMask : Prop :=
  (∀ w : CommandWord,
    (w &&& 0x30000#18 = 0x00000#18 → decode w = .result) ∧
    (w &&& 0x30000#18 = 0x10000#18 → decode w = .update (operandA w)) ∧
    (w &&& 0x30000#18 = 0x20000#18 → decode w = .reset) ∧
    (w &&& 0x30000#18 = 0x30000#18 → decode w = .construct (operandA w) (operandB w)) ∧
    (w &&& 0x30000#18 = 0x00000#18 ∨ w &&& 0x30000#18 = 0x10000#18 ∨
      w &&& 0x30000#18 = 0x20000#18 ∨ w &&& 0x30000#18 = 0x30000#18)) ∧
  (encode .result).toNat = 0x00000 ∧
  (∀ b : Byte, (encode (.update b)).toNat = 0x10000 + b.toNat * 256) ∧
  (encode .reset).toNat = 0x20000 ∧
  (∀ p i : Byte, (encode (.construct p i)).toNat = 0x30000 + p.toNat * 256 + i.toNat)

/-- 30_encoding.md section 4, the spec's own inference from its field layout: "`decode(encode(c)) = c` for every command
c; `encode(decode(w)) = w` exactly when the ignored bits of w are 0". -/
def Obligations.DecodeInvertsEncode : Prop :=
  (∀ i : Instr, decode (encode i) = i) ∧
  (∀ w : CommandWord, encode (decode w) = w ↔ w &&& ignoredBits (decode w) = 0#18)

/-- R42: two words that differ only in ignored bits are the same command and have the same effect in every state; the
ignored bits are A and B of RESULT and RESET and B of UPDATE; canonical words have them 0, and the assembler emits
canonical words. -/
def Obligations.IgnoredBitsChangeNothing : Prop :=
  (∀ w w' : CommandWord, w &&& ~~~ ignoredBits (decode w) = w' &&& ~~~ ignoredBits (decode w) →
    decode w = decode w' ∧
    ∀ (s : State) (rest : List HostEvent),
      step (s.withInputs (.command w :: rest)) = step (s.withInputs (.command w' :: rest))) ∧
  (ignoredBits .result = 0x0FFFF#18 ∧ ignoredBits .reset = 0x0FFFF#18 ∧
    (∀ b, ignoredBits (.update b) = 0x000FF#18) ∧ ∀ p i, ignoredBits (.construct p i) = 0#18) ∧
  (∀ i : Instr, encode i &&& ignoredBits i = 0#18) ∧
  (∀ (text : List Char) (is : List Instr), assemble text = .ok is → assembleWords text = .ok (is.map encode))

/-- 30_encoding.md section 7: the words written out there decode to the commands they stand for. -/
def Obligations.DecodesTheWrittenWords : Prop :=
  decode 0b110000011100000000#18 = .construct 0x07 0x00 ∧
  decode 0b110011000111111111#18 = .construct 0x31 0xFF ∧
  decode 0b111111111111111111#18 = .construct 0xFF 0xFF ∧
  decode 0b100000000000000000#18 = .reset ∧
  decode 0b010000000100000000#18 = .update 0x01 ∧
  decode 0b010011000100000000#18 = .update 0x31 ∧
  decode 0b000000000000000000#18 = .result ∧
  decode 0b011010101111001101#18 = .update 0xAB ∧
  decode 0b101111111111111111#18 = .reset ∧
  decode 0b001011111011101111#18 = .result

/-- 30_encoding.md section 4, the spec's own inference: "each of the 262144 possible 18-bit words spells exactly one
command"; a number that does not fit 18 bits is no word and is rejected by name (the model's choice, log 8). -/
def Obligations.EveryWordIsACommand : Prop :=
  ∀ w : Nat,
    (w < 262144 → decodeNat w = .ok (decode (BitVec.ofNat 18 w))) ∧
    (262144 ≤ w → decodeNat w = .error .notEighteenBits)

/-- 30_encoding.md section 5: lines in the assembler's syntax, and what it refuses. The blanks allowed, the line with a
comment alone and the names of the errors are the model's choice (log 7). -/
def Obligations.AssemblerReadsTheSyntax : Prop :=
  assemble "CONSTRUCT 0x07, 0x00".toList = .ok [.construct 0x07 0x00] ∧
  assemble "CONSTRUCT 49, 255 ; p, i".toList = .ok [.construct 0x31 0xFF] ∧
  assemble "RESET\nUPDATE 0xAB\nRESULT".toList = .ok [.reset, .update 0xAB, .result] ∧
  assemble "; only a comment".toList = .ok [] ∧
  assemble "UPDATE 256".toList = .error .operandOutOfRange ∧
  assemble "UPDATE 0x100".toList = .error .operandOutOfRange ∧
  assemble "update 1".toList = .error .unknownMnemonic

/-- 30_encoding.md section 5: the listing of any program, with operands printed as the spec's tables print them, is
assembled back to that program. The layout of a listing is the model's choice (log 7). -/
def Obligations.AssemblerReadsEveryListing : Prop :=
  ∀ is : List Instr, assemble (listing is) = .ok is ∧ assembleWords (listing is) = .ok (is.map encode)

/-! ### The engine -/

/-- R50: the one-bit step, as the rule writes it, as arithmetic on numbers, and the rule's examples. -/
def Obligations.StepOfTheShiftRegister : Prop :=
  (∀ c p : Byte,
    lfsrStep c p = (if c.getLsbD 7 = true then shl1 c ^^^ p else shl1 c) ∧
    (shl1 c).toNat = (2 * c.toNat) % 256 ∧
    (lfsrStep c p).toNat = ((2 * c.toNat) % 256) ^^^ (if c.toNat ≥ 128 then p.toNat else 0)) ∧
  lfsrStep 0x00 0x07 = 0x00 ∧ lfsrStep 0x7F 0x07 = 0xFE ∧ lfsrStep 0x80 0x07 = 0x07 ∧ lfsrStep 0xFF 0x07 = 0xF9 ∧
  lfsrStep 0x80 0x00 = 0x00 ∧ lfsrStep 0xFF 0xFF = 0x01 ∧ lfsrStep 0x40 0x31 = 0x80 ∧ lfsrStep 0xC0 0x31 = 0xB1 ∧
  lfsrStep 0x81 0x01 = 0x03

/-- 41_update.md section 3, the spec's own inference: the step as wires of an internal-XOR shift register. -/
def Obligations.StepAsWires : Prop :=
  ∀ c p : Byte,
    (lfsrStep c p).getLsbD 0 = (c.getLsbD 7 && p.getLsbD 0) ∧
    ∀ j, 1 ≤ j → j ≤ 7 →
      (lfsrStep c p).getLsbD j = (c.getLsbD (j - 1) ^^ (c.getLsbD 7 && p.getLsbD j))

/-- R51: the byte is XORed in once and exactly eight steps with the same polynomial follow, for every input; with the
rule's two examples. -/
def Obligations.UpdateIsOneXorAndEightSteps : Prop :=
  (∀ c p b : Byte, update c p b = (fun x => lfsrStep x p)^[8] (c ^^^ b)) ∧
  update 0x00 0x07 0x01 = 0x07 ∧ update 0xFF 0x31 0xAB = 0xBA

/-- R54: `crc8` is the left fold, and it is what a sequence of UPDATE commands leaves in CRC, from every state in which
an engine has been constructed. -/
def Obligations.UpdatesFoldTheMessage : Prop :=
  (∀ p c : Byte, crc8 p c [] = c) ∧
  (∀ (p c b : Byte) (bs : List Byte), crc8 p c ([b] ++ bs) = crc8 p (update c p b) bs) ∧
  (∀ (s : State) (bs : List Byte), s.valid = true →
    run bs.length (s.feed (updates bs)) = .next { s with inputs := [], crc := crc8 s.poly s.crc bs })

/-- 43_properties.md section 2, the spec's own inference (table form): `update(c, p, b) = update(0x00, p, c xor b)`. -/
def Obligations.OnlyTheXorOfCrcAndByteMatters : Prop :=
  ∀ c p b : Byte, update c p b = update 0x00 p (c ^^^ b)

/-- 43_properties.md section 2, the spec's own inference: linearity over XOR of the step and of the byte fold. -/
def Obligations.EngineIsLinearOverXor : Prop :=
  (∀ a b p : Byte, lfsrStep (a ^^^ b) p = lfsrStep a p ^^^ lfsrStep b p) ∧
  (∀ a b p x y : Byte, update (a ^^^ b) p (x ^^^ y) = update a p x ^^^ update b p y)

/-- 43_properties.md section 2, the spec's own inference: the initial value contributes a term that depends on the
length of the message alone. -/
def Obligations.InitialValueTermDependsOnLengthOnly : Prop :=
  ∀ (p i : Byte) (bs : List Byte),
    crc8 p i bs ^^^ crc8 p 0x00 bs = crc8 p i (List.replicate bs.length 0x00)

/-- 43_properties.md section 2, the spec's own inference (zero residue): folding the checksum in after the message
brings the accumulator to zero. -/
def Obligations.ChecksumAppendedLeavesZero : Prop :=
  ∀ (p c : Byte) (bs : List Byte), crc8 p c (bs ++ [crc8 p c bs]) = 0x00

/-- 43_properties.md section 2, the spec's own inference: POLY = 0x00 gives 0x00 for every non-empty message, and
POLY = 0x01 gives INIT XORed with all the message bytes. -/
def Obligations.DegeneratePolynomials : Prop :=
  (∀ (i : Byte) (bs : List Byte), bs ≠ [] → crc8 0x00 i bs = 0x00) ∧
  (∀ (i : Byte) (bs : List Byte), crc8 0x01 i bs = bs.foldl (· ^^^ ·) i)

/-- 43_properties.md section 2, the spec's own inference: the step and the byte map are bijections exactly when bit 0 of
the polynomial is 1. -/
def Obligations.BijectiveExactlyForOddPolynomials : Prop :=
  ∀ p : Byte,
    (Function.Bijective (fun c => lfsrStep c p) ↔ p.getLsbD 0 = true) ∧
    (Function.Bijective (fun x => update 0x00 p x) ↔ p.getLsbD 0 = true)

/-- 43_properties.md section 1 (order sensitivity, read as existential, with the spec's own inference of the
exceptions): the checksum of every message is independent of the order of its bytes exactly for nine polynomials, and
for every other polynomial and every initial value the bytes 0x01 and 0x00 in either order give different checksums. -/
def Obligations.ExactlyNinePolynomialsIgnoreOrder : Prop :=
  crc8 0x07 0x00 [0x01, 0x02] = 0x1B ∧ crc8 0x07 0x00 [0x02, 0x01] = 0x2D ∧
  (∀ p : Byte,
    (∀ (i : Byte) (bs bs' : List Byte), bs.Perm bs' → crc8 p i bs = crc8 p i bs') ↔
      p ∈ [0x00, 0x01, 0x10, 0x40, 0x54, 0x80, 0x98, 0xE0, 0xFE]) ∧
  (∀ p i : Byte, p ∉ [0x00, 0x01, 0x10, 0x40, 0x54, 0x80, 0x98, 0xE0, 0xFE] →
    crc8 p i [0x01, 0x00] ≠ crc8 p i [0x00, 0x01])

/-- An 8-bit value as the polynomial `v[7] x^7 + ... + v[0]` over GF(2) (43_properties.md section 2). -/
noncomputable def Sys2Proof.Machine.gf2Poly (v : Byte) : Polynomial (ZMod 2) :=
  ∑ k ∈ Finset.range 8, if v.getLsbD k = true then Polynomial.X ^ k else 0

/-- A message as one polynomial, the first byte in the highest place. -/
noncomputable def Sys2Proof.Machine.messagePoly : List Byte → Polynomial (ZMod 2)
  | [] => 0
  | b :: rest => gf2Poly b * Polynomial.X ^ (8 * rest.length) + messagePoly rest

/-- 43_properties.md section 2, the spec's own inference, with its reading from general knowledge that the x^8 term of
the generator is 1 and not stored: the engine computes the remainder of polynomial division over GF(2), for a byte and
for a whole message. -/
def Obligations.EngineDividesPolynomials : Prop :=
  (∀ c p b : Byte,
    gf2Poly (update c p b) = (gf2Poly (c ^^^ b) * Polynomial.X ^ 8) %ₘ (Polynomial.X ^ 8 + gf2Poly p)) ∧
  (∀ (p i : Byte) (bs : List Byte),
    gf2Poly (crc8 p i bs) =
      (gf2Poly i * Polynomial.X ^ (8 * bs.length) + messagePoly bs * Polynomial.X ^ 8) %ₘ
        (Polynomial.X ^ 8 + gf2Poly p))

/-! ### The four commands: effect, completion and frame -/

/-- R48: CONSTRUCT executes in every state, loads POLY, INIT and CRC, sets VALID and changes nothing else; its word; a
RESULT straight after it responds with `i`. -/
def Obligations.ConstructBindsAnEngine : Prop :=
  ∀ (p i : Byte) (s : State),
    exec (.construct p i) s = .next { s with poly := p, init := i, crc := i, valid := true } ∧
    (encode (.construct p i)).toNat = 0x30000 + p.toNat * 256 + i.toNat ∧
    exec .result { s with poly := p, init := i, crc := i, valid := true } =
      .next { s with poly := p, init := i, crc := i, valid := true, undelivered := s.undelivered ++ [i] }

/-- R49: RESET sets CRC to INIT and changes nothing else; it is idempotent; while VALID is 0 it is refused; its word. -/
def Obligations.ResetReseedsCrc : Prop :=
  ∀ s : State,
    (s.valid = true → exec .reset s = .next { s with crc := s.init }) ∧
    (s.valid = true → exec .reset { s with crc := s.init } = .next { s with crc := s.init }) ∧
    (s.valid = false → exec .reset s = .refused .notConstructed) ∧
    (encode .reset).toNat = 0x20000

/-- R55: UPDATE writes the fold of the byte to CRC and changes nothing else; while VALID is 0 it is refused; its word;
and the rule's corner cases (a) to (d). -/
def Obligations.UpdateWritesTheFold : Prop :=
  (∀ (b : Byte) (s : State),
    (s.valid = true → exec (.update b) s = .next { s with crc := update s.crc s.poly b }) ∧
    (s.valid = false → exec (.update b) s = .refused .notConstructed) ∧
    (encode (.update b)).toNat = 0x10000 + b.toNat * 256) ∧
  (∀ p : Byte, update 0x00 p 0x00 = 0x00) ∧
  (∀ c p : Byte, update c p c = 0x00) ∧
  (∀ c b : Byte, update c 0x00 b = 0x00) ∧
  (∀ c b : Byte, update c 0x01 b = c ^^^ b)

/-- 42_result.md: RESULT puts exactly one response, the accumulator itself, behind those already on the channel and
changes nothing else; while VALID is 0 it is refused; its word. -/
def Obligations.ResultRespondsWithCrc : Prop :=
  ∀ s : State,
    (s.valid = true → exec .result s = .next { s with undelivered := s.undelivered ++ [s.crc] }) ∧
    (s.valid = false → exec .result s = .refused .notConstructed) ∧
    (encode .result).toNat = 0x00000

/-- R68: a command is refused exactly when it is RESET, UPDATE or RESULT and VALID is 0, always for the one reason
NotConstructed, and otherwise it has a next state; a run once refused stays refused. -/
def Obligations.RefusedExactlyBeforeConstruct : Prop :=
  (∀ (i : Instr) (s : State),
    (exec i s = .refused .notConstructed ↔ s.valid = false ∧ i.isConstruct = false) ∧
    (¬ (s.valid = false ∧ i.isConstruct = false) → ∃ t, exec i s = .next t)) ∧
  (∀ (k m : Nat) (s : State) (r : Refusal), run k s = .refused r → r = .notConstructed ∧ run (k + m) s = .refused r)

/-- 60_exceptions.md section 1: there is no exception. Every run either reaches a next state or is refused with
NotConstructed. -/
def Obligations.NoExceptionEver : Prop :=
  IsEmpty Fault ∧ ∀ (k : Nat) (s : State), (∃ t, run k s = .next t) ∨ run k s = .refused .notConstructed

/-- R18: the access table. A register (or VALID) that is not listed as written keeps its value; one that is not listed
as read has no influence on what the command writes or responds, nor on whether it executes. -/
def Obligations.RegistersAccessedAsTheTableSays : Prop :=
  (readsOf .result = [.crc] ∧ (∀ b, readsOf (.update b) = [.crc, .poly]) ∧ readsOf .reset = [.init] ∧
    ∀ p i, readsOf (.construct p i) = []) ∧
  (writesOf .result = [] ∧ (∀ b, writesOf (.update b) = [.crc]) ∧ writesOf .reset = [.crc] ∧
    ∀ p i, writesOf (.construct p i) = [.poly, .init, .crc]) ∧
  (∀ (i : Instr) (s t : State), exec i s = .next t →
    (∀ r, r ∉ writesOf i → t.reg r = s.reg r) ∧ (i.isConstruct = false → t.valid = s.valid)) ∧
  (∀ (i : Instr) (s s' t : State), (∀ r ∈ readsOf i, s.reg r = s'.reg r) → (i.isConstruct = true ∨ s.valid = s'.valid) →
    exec i s = .next t →
    ∃ t', exec i s' = .next t' ∧ (∀ r ∈ writesOf i, t.reg r = t'.reg r) ∧
      (∀ rs, t.undelivered = s.undelivered ++ rs → t'.undelivered = s'.undelivered ++ rs))

/-- 20_memory.md section 2: each accepted RESULT produces exactly one response, the value of CRC, and the other commands
none; responses are delivered in the order of the RESULT commands that caused them. That delivery is an event of the
host, and that no command delivers, is the model's choice (log 3). -/
def Obligations.OnlyResultResponds : Prop :=
  (∀ (i : Instr) (s t : State), exec i s = .next t →
    t.delivered = s.delivered ∧
    (i = .result → t.undelivered = s.undelivered ++ [s.crc]) ∧
    (i ≠ .result → t.undelivered = s.undelivered)) ∧
  (∀ (s : State) (v : Byte) (vs : List Byte) (rest : List HostEvent),
    s.inputs = .takeResponse :: rest → s.undelivered = v :: vs →
    step s = .next { s with inputs := rest, undelivered := vs, delivered := s.delivered ++ [v] })

/-- R15: every command but CONSTRUCT executes with POLY and INIT unchanged, in every state with VALID = 1. -/
def Obligations.ParametersUnchangedByACommand : Prop :=
  ∀ (i : Instr) (s : State), i.isConstruct = false → s.valid = true →
    ∃ t, exec i s = .next t ∧ t.poly = s.poly ∧ t.init = s.init

/-- 10_state.md sections 3 and 5: POLY, INIT and VALID are the same all through an instance, however many commands and
deliveries it has. The taking of a response as an event is the model's choice (log 3). -/
def Obligations.ParametersFixedThroughAnInstance : Prop :=
  ∀ (k : Nat) (s : State), s.valid = true → (∀ e ∈ s.inputs, e.withinInstance = true) →
    ∃ t, run k s = .next t ∧ t.poly = s.poly ∧ t.init = s.init ∧ t.valid = true

/-- R17: immediately after a CONSTRUCT p, i completes, CRC = INIT = i; immediately after a RESET completes, CRC = INIT. -/
def Obligations.SeededAfterConstructAndReset : Prop :=
  (∀ (p i : Byte) (s : State), ∃ t, exec (.construct p i) s = .next t ∧ t.crc = i ∧ t.init = i) ∧
  (∀ s : State, s.valid = true → ∃ t, exec .reset s = .next t ∧ t.crc = t.init)

/-- 20_memory.md section 3: RESULT is repeatable and gives the same value twice; RESET twice is RESET once; CONSTRUCT with the same
operands twice is CONSTRUCT once (the spec's own inference); UPDATE is not idempotent in general; and no command touches the host's input or what
was delivered (the model's choice, log 3). -/
def Obligations.IdempotencyOfCommands : Prop :=
  (∀ s : State, s.valid = true →
    ∃ t, execAll [.result, .result] s = .next t ∧ sameEngine s t ∧
      t.undelivered = s.undelivered ++ [s.crc, s.crc]) ∧
  (∀ s : State, s.valid = true → execAll [.reset, .reset] s = execAll [.reset] s) ∧
  (∀ (p i : Byte) (s : State), execAll [.construct p i, .construct p i] s = execAll [.construct p i] s) ∧
  (∃ (b : Byte) (s : State), s.valid = true ∧ execAll [.update b, .update b] s ≠ execAll [.update b] s) ∧
  (∀ (i : Instr) (s t : State), exec i s = .next t → t.inputs = s.inputs ∧ t.delivered = s.delivered)

/-! ### The step -/

/-- 20_memory.md section 2 and 00_scope.md section 5: a step decodes the word the host offers next and executes it, with
that word gone from the channel and nothing else added; in particular for the canonical word of any command. -/
def Obligations.StepRunsTheDecodedCommand : Prop :=
  (∀ (s : State) (w : CommandWord) (rest : List HostEvent), s.inputs = .command w :: rest →
    step s = exec (decode w) { s with inputs := rest }) ∧
  (∀ (s : State) (i : Instr) (rest : List HostEvent), s.inputs = .command (encode i) :: rest →
    step s = exec i { s with inputs := rest })

/-- 60_exceptions.md section 6: when the host offers nothing the block is idle and keeps its state. The idle step itself
is the model's choice (log 2). -/
def Obligations.IdleBlockKeepsItsState : Prop :=
  ∀ (k : Nat) (s : State), s.inputs = [] → run k s = .next s

/-- 70_reset_and_hazards.md section 1 and 60_exceptions.md section 2: a hardware reset can occur in any state; after it VALID is 0, the registers hold no value (every command that
would read one is refused), responses not yet delivered are lost, and a command in progress (whichever it is) is
abandoned without a response and without effect. That responses already delivered are kept is the model's choice
(log 3), and that the next state is the same whatever the coinciding command is the model's inference (log 4). -/
def Obligations.HardwareResetFromAnyState : Prop :=
  ∀ (s : State) (coinciding : Option CommandWord) (rest : List HostEvent),
    s.inputs = .hardwareReset coinciding :: rest →
    ∃ t, step s = .next t ∧ t.valid = false ∧ t.undelivered = [] ∧ t.delivered = s.delivered ∧ t.inputs = rest ∧
      (∀ i : Instr, i.isConstruct = false → exec i t = .refused .notConstructed) ∧
      (∀ c : Option CommandWord, step (s.withInputs (.hardwareReset c :: rest)) = .next t)

/-- 10_state.md section 7: the state after a hardware reset, in which a run begins: VALID is 0, nothing has been offered
and nothing is to be delivered, and the commands that would read a register are refused. That the run begins with an
empty channel and nothing delivered is the model's choice (logs 2 and 3). -/
def Obligations.ResetStateRefusesAllButConstruct : Prop :=
  State.reset.valid = false ∧ State.reset.inputs = [] ∧ State.reset.observation = [] ∧
  (∀ i : Instr, i.isConstruct = false → exec i State.reset = .refused .notConstructed) ∧
  (∀ p i : Byte, ∃ t, exec (.construct p i) State.reset = .next t ∧
    t.poly = p ∧ t.init = i ∧ t.crc = i ∧ t.valid = true)

/-- The invariant `State.waitingNeedsEngine` (10_state.md section 2, 60_exceptions.md section 1, 70_reset_and_hazards.md
section 1): every step from every state that has it leads to a state that has it. That a waiting response is one the host
has not taken by an event of its own is the model's choice (log 3). -/
def Obligations.WaitingResponsesNeedAnEngine : Prop :=
  ∀ s t : State, s.waitingNeedsEngine → step s = .next t → t.waitingNeedsEngine

/-- The invariant holds in the state after a hardware reset. -/
def Obligations.NothingWaitsAfterReset : Prop := State.reset.waitingNeedsEngine

/-! ### Runs -/

/-- R34: the state after a sequence of commands is the left-to-right fold of the per-command rules over it, in every
state, refusals included. -/
def Obligations.RunIsTheFoldOfTheCommands : Prop :=
  ∀ (s : State) (is : List Instr), run is.length (s.feed is) = execAll is (s.withInputs [])

/-- R57: the response to RESULT after `CONSTRUCT p, i; UPDATE S[0]; ...; UPDATE S[n-1]` is `crc8(p, i, S)`, whatever the
block held before the CONSTRUCT: the same from any two states. -/
def Obligations.ChecksumDependsOnTheMessageAlone : Prop :=
  ∀ (p i : Byte) (bs : List Byte) (s : State),
    run (bs.length + 2) (s.feed (.construct p i :: updates bs ++ [.result])) =
      .next { s with
        poly := p, init := i, crc := crc8 p i bs, valid := true, inputs := []
        undelivered := s.undelivered ++ [crc8 p i bs] }

/-- 60_exceptions.md section 5 and 43_properties.md section 1: two blocks, whatever each held before, that get the same
CONSTRUCT and the same commands after it give the same responses and end with the same registers. That two blocks are
two values of State is the model's inference (log 6). -/
def Obligations.TwoBlocksAgreeAfterConstruct : Prop :=
  ∀ (p i : Byte) (is : List Instr) (s s' : State),
    ∃ t t', run (is.length + 1) (s.feed (.construct p i :: is)) = .next t ∧
      run (is.length + 1) (s'.feed (.construct p i :: is)) = .next t' ∧ sameEngine t t' ∧
      ∃ rs, t.undelivered = s.undelivered ++ rs ∧ t'.undelivered = s'.undelivered ++ rs

/-- R58: from every state with VALID = 1, POLY = p and INIT = i, the state after RESET equals the state after
`CONSTRUCT p, i`, register for register, and every later command sequence has the same outcome. -/
def Obligations.ResetIsAsGoodAsConstruct : Prop :=
  ∀ s : State, s.valid = true →
    exec .reset s = .next { s with poly := s.poly, init := s.init, crc := s.init, valid := true } ∧
    exec (.construct s.poly s.init) s = exec .reset s ∧
    ∀ (k : Nat) (is : List Instr),
      run (k + 1) (s.feed (.reset :: is)) = run (k + 1) (s.feed (.construct s.poly s.init :: is))

/-- R60: feeding a message in two parts, with or without a RESULT between them, gives the same final checksum as feeding
it whole, and the RESULT between changes neither the registers nor the later response. -/
def Obligations.PausingChangesNothing : Prop :=
  (∀ (p c : Byte) (bs cs : List Byte), crc8 p c (bs ++ cs) = crc8 p (crc8 p c bs) cs) ∧
  (∀ (s : State) (bs cs : List Byte), s.valid = true →
    run (bs.length + cs.length + 1) (s.feed (updates bs ++ updates cs ++ [.result])) =
      .next { s with
        inputs := [], crc := crc8 s.poly s.crc (bs ++ cs)
        undelivered := s.undelivered ++ [crc8 s.poly s.crc (bs ++ cs)] } ∧
    run (bs.length + cs.length + 2) (s.feed (updates bs ++ [.result] ++ updates cs ++ [.result])) =
      .next { s with
        inputs := [], crc := crc8 s.poly s.crc (bs ++ cs)
        undelivered := s.undelivered ++ [crc8 s.poly s.crc bs, crc8 s.poly s.crc (bs ++ cs)] })

/-- 42_result.md corner case (b): any number of RESULT commands may be inserted anywhere in a command stream without
changing the registers it ends with. -/
def Obligations.ResultsMayBeInsertedAnywhere : Prop :=
  ∀ (s : State) (is : List Instr), s.valid = true →
    ∃ t t', execAll is s = .next t ∧ execAll (is.filter (· ≠ .result)) s = .next t' ∧ sameEngine t t' ∧
      t'.undelivered = s.undelivered

/-- 70_reset_and_hazards.md section 5 ("the observation of a run is the sequence of its responses, one per RESULT, in
order"), over the model's choice of when a response is delivered (log 3): within a stream without a hardware reset it
does not matter when, or whether, the host takes the responses. -/
def Obligations.DeliveryTimingIsNotObserved : Prop :=
  ∀ s t : State, (∀ c, .hardwareReset c ∉ s.inputs) → run s.inputs.length s = .next t →
    ∃ t', run (s.inputs.filter (· ≠ .takeResponse)).length (s.withInputs (s.inputs.filter (· ≠ .takeResponse))) =
        .next t' ∧ sameEngine t t' ∧ t.observation = t'.observation

/-- R66: in every state with VALID = 1 each of the four commands executes and leaves a state with VALID = 1, and every
finite command sequence that begins with a CONSTRUCT executes whole, from any state. -/
def Obligations.NoTerminalState : Prop :=
  (∀ (i : Instr) (s : State), s.valid = true → ∃ t, exec i s = .next t ∧ t.valid = true) ∧
  (∀ (p i : Byte) (is : List Instr) (s : State),
    ∃ t, run (is.length + 1) (s.feed (.construct p i :: is)) = .next t ∧ t.valid = true)

/-- 70_reset_and_hazards.md section 2 and 60_exceptions.md section 1: whatever the host does (commands, hardware resets,
taking responses), its whole stream is carried out exactly when after every hardware reset it issues a CONSTRUCT before
any other command, and otherwise the run is refused with NotConstructed. The taking as an event is the model's choice
(log 3), and that a word abandoned by a hardware reset is not counted as refused is its inference (log 4). -/
def Obligations.CarriedOutExactlyWhenConstructedFirst : Prop :=
  ∀ s : State,
    (constructsFirst s.valid s.inputs = true ↔ ∃ t, run s.inputs.length s = .next t) ∧
    (constructsFirst s.valid s.inputs = false ↔ run s.inputs.length s = .refused .notConstructed)

/-- 10_state.md section 7 ("the model must not assume any bit pattern"): what a register holds while it holds no value,
and how often free values were drawn, is never observed. Two states that differ in nothing else have, after any number
of steps, outcomes that differ in nothing else. Free values for such registers are the model's choice (log 1). -/
def Obligations.NoValueIsNeverObserved : Prop :=
  ∀ (k : Nat) (s t : State), sameButNoValue s t → sameOutcomeButNoValue (run k s) (run k t)

/-- R80: with a RESET (or a fresh CONSTRUCT with the same operands) between two messages the second response is the
checksum of the second message; without it, of both messages together. -/
def Obligations.MissingResetCoversBothMessages : Prop :=
  ∀ (p i : Byte) (bs cs : List Byte) (s : State),
    run (bs.length + cs.length + 3) (s.feed (.construct p i :: updates bs ++ .result :: updates cs ++ [.result])) =
      .next { s with
        poly := p, init := i, crc := crc8 p i (bs ++ cs), valid := true, inputs := []
        undelivered := s.undelivered ++ [crc8 p i bs, crc8 p i (bs ++ cs)] } ∧
    ∀ again ∈ [Instr.reset, .construct p i],
      run (bs.length + cs.length + 4)
          (s.feed (.construct p i :: updates bs ++ .result :: again :: updates cs ++ [.result])) =
        .next { s with
          poly := p, init := i, crc := crc8 p i cs, valid := true, inputs := []
          undelivered := s.undelivered ++ [crc8 p i bs, crc8 p i cs] }

/-- R46: CRCBUF expands to RESET, one UPDATE per byte in order, RESULT: n + 2 command words, whose one response is
`crc8(POLY, INIT, [b1, ..., bn])`; the assembler knows it, and n may be 0. -/
def Obligations.CrcbufComputesOneChecksum : Prop :=
  (∀ bs : List Byte, Instr.crcbuf bs = [.reset] ++ updates bs ++ [.result] ∧ (Instr.crcbuf bs).length = bs.length + 2) ∧
  (∀ (s : State) (bs : List Byte), s.valid = true →
    run (bs.length + 2) (s.feed (Instr.crcbuf bs)) =
      .next { s with
        inputs := [], crc := crc8 s.poly s.init bs
        undelivered := s.undelivered ++ [crc8 s.poly s.init bs] }) ∧
  assemble "CRCBUF 0x01, 0x02".toList = .ok [.reset, .update 0x01, .update 0x02, .result] ∧
  assemble "CRCBUF".toList = .ok [.reset, .result]
end

