-- ==== Sys2Proof/Laws/Decode.lean ====
section
/-! SUPPORT. A command word is its three fields (R39): one lemma that says so, and what the field readers and the
decoder give on a word put together from fields. -/

namespace Sys2Proof

/-- A word is `op`, A, B in that order from bit 17 down (R38, R39). -/
theorem eq_append_fields (w : CommandWord) : w = opField w ++ operandA w ++ operandB w := by
  refine BitVec.eq_of_getLsbD_eq fun k hk => ?_
  show w.getLsbD k = (opField w ++ operandA w ++ operandB w).getLsbD k
  simp only [BitVec.getLsbD_append, opField, operandA, operandB, BitVec.getLsbD_extractLsb']
  interval_cases k <;> simp

/-- Two words with equal fields are equal. -/
theorem ext_of_fields {w w' : CommandWord} (ho : opField w = opField w') (ha : operandA w = operandA w')
    (hb : operandB w = operandB w') : w = w' := by
  rw [eq_append_fields w, eq_append_fields w', ho, ha, hb]

theorem opField_append (o : BitVec 2) (a b : Byte) : opField (o ++ a ++ b) = o := by
  refine BitVec.eq_of_getLsbD_eq fun k hk => ?_
  simp only [BitVec.getLsbD_append, opField, BitVec.getLsbD_extractLsb']
  interval_cases k <;> simp

theorem operandA_append (o : BitVec 2) (a b : Byte) : operandA (o ++ a ++ b) = a := by
  refine BitVec.eq_of_getLsbD_eq fun k hk => ?_
  simp only [BitVec.getLsbD_append, operandA, BitVec.getLsbD_extractLsb']
  interval_cases k <;> simp

theorem operandB_append (o : BitVec 2) (a b : Byte) : operandB (o ++ a ++ b) = b := by
  refine BitVec.eq_of_getLsbD_eq fun k hk => ?_
  simp only [BitVec.getLsbD_append, operandB, BitVec.getLsbD_extractLsb']
  interval_cases k <;> simp

/-- The number of a word put together from fields: `cmd = op * 65536 + A * 256 + B` (section 1 of 30_encoding.md). -/
theorem toNat_append_fields (o : BitVec 2) (a b : Byte) :
    (o ++ a ++ b).toNat = o.toNat * 65536 + a.toNat * 256 + b.toNat := by
  rw [BitVec.toNat_append, BitVec.toNat_append, ← Nat.shiftLeft_add_eq_or_of_lt b.isLt,
    ← Nat.shiftLeft_add_eq_or_of_lt a.isLt]
  simp only [Nat.shiftLeft_eq]
  omega

/-- The two bits the decoder looks at are those of `op`. -/
theorem decode_bits (w : CommandWord) :
    w.getLsbD 17 = (opField w).getLsbD 1 ∧ w.getLsbD 16 = (opField w).getLsbD 0 := by
  simp [opField]

end Sys2Proof
end

