-- ==== Sys2Proof/Laws/State.lean ====
section
/-! SUPPORT. What each update of the state leaves in each field: one lemma per field, true by unfolding once. -/

namespace Sys2Proof.Machine

@[simp] theorem State.reg_poly (s : State) : s.reg .poly = s.poly := rfl
@[simp] theorem State.reg_init (s : State) : s.reg .init = s.init := rfl
@[simp] theorem State.reg_crc (s : State) : s.reg .crc = s.crc := rfl

@[simp] theorem State.writeCrc_poly (v : Byte) (s : State) : (s.writeCrc v).poly = s.poly := rfl
@[simp] theorem State.writeCrc_init (v : Byte) (s : State) : (s.writeCrc v).init = s.init := rfl
@[simp] theorem State.writeCrc_crc (v : Byte) (s : State) : (s.writeCrc v).crc = v := rfl
@[simp] theorem State.writeCrc_valid (v : Byte) (s : State) : (s.writeCrc v).valid = s.valid := rfl
@[simp] theorem State.writeCrc_inputs (v : Byte) (s : State) : (s.writeCrc v).inputs = s.inputs := rfl
@[simp] theorem State.writeCrc_undelivered (v : Byte) (s : State) : (s.writeCrc v).undelivered = s.undelivered := rfl
@[simp] theorem State.writeCrc_delivered (v : Byte) (s : State) : (s.writeCrc v).delivered = s.delivered := rfl
@[simp] theorem State.writeCrc_freeDraws (v : Byte) (s : State) : (s.writeCrc v).freeDraws = s.freeDraws := rfl

@[simp] theorem State.construct_poly (p i : Byte) (s : State) : (s.construct p i).poly = p := rfl
@[simp] theorem State.construct_init (p i : Byte) (s : State) : (s.construct p i).init = i := rfl
@[simp] theorem State.construct_crc (p i : Byte) (s : State) : (s.construct p i).crc = i := rfl
@[simp] theorem State.construct_valid (p i : Byte) (s : State) : (s.construct p i).valid = true := rfl
@[simp] theorem State.construct_inputs (p i : Byte) (s : State) : (s.construct p i).inputs = s.inputs := rfl
@[simp] theorem State.construct_undelivered (p i : Byte) (s : State) : (s.construct p i).undelivered = s.undelivered := rfl
@[simp] theorem State.construct_delivered (p i : Byte) (s : State) : (s.construct p i).delivered = s.delivered := rfl
@[simp] theorem State.construct_freeDraws (p i : Byte) (s : State) : (s.construct p i).freeDraws = s.freeDraws := rfl

@[simp] theorem State.withInputs_poly (evs : List HostEvent) (s : State) : (s.withInputs evs).poly = s.poly := rfl
@[simp] theorem State.withInputs_init (evs : List HostEvent) (s : State) : (s.withInputs evs).init = s.init := rfl
@[simp] theorem State.withInputs_crc (evs : List HostEvent) (s : State) : (s.withInputs evs).crc = s.crc := rfl
@[simp] theorem State.withInputs_valid (evs : List HostEvent) (s : State) : (s.withInputs evs).valid = s.valid := rfl
@[simp] theorem State.withInputs_inputs (evs : List HostEvent) (s : State) : (s.withInputs evs).inputs = evs := rfl
@[simp] theorem State.withInputs_undelivered (evs : List HostEvent) (s : State) : (s.withInputs evs).undelivered = s.undelivered := rfl
@[simp] theorem State.withInputs_delivered (evs : List HostEvent) (s : State) : (s.withInputs evs).delivered = s.delivered := rfl
@[simp] theorem State.withInputs_freeDraws (evs : List HostEvent) (s : State) : (s.withInputs evs).freeDraws = s.freeDraws := rfl

@[simp] theorem State.respond_poly (v : Byte) (s : State) : (s.respond v).poly = s.poly := rfl
@[simp] theorem State.respond_init (v : Byte) (s : State) : (s.respond v).init = s.init := rfl
@[simp] theorem State.respond_crc (v : Byte) (s : State) : (s.respond v).crc = s.crc := rfl
@[simp] theorem State.respond_valid (v : Byte) (s : State) : (s.respond v).valid = s.valid := rfl
@[simp] theorem State.respond_inputs (v : Byte) (s : State) : (s.respond v).inputs = s.inputs := rfl
@[simp] theorem State.respond_undelivered (v : Byte) (s : State) : (s.respond v).undelivered = s.undelivered ++ [v] := rfl
@[simp] theorem State.respond_delivered (v : Byte) (s : State) : (s.respond v).delivered = s.delivered := rfl
@[simp] theorem State.respond_freeDraws (v : Byte) (s : State) : (s.respond v).freeDraws = s.freeDraws := rfl

@[simp] theorem State.hwReset_poly (s : State) : (s.hwReset).poly = Config.noValue s.freeDraws := rfl
@[simp] theorem State.hwReset_init (s : State) : (s.hwReset).init = Config.noValue (s.freeDraws + 1) := rfl
@[simp] theorem State.hwReset_crc (s : State) : (s.hwReset).crc = Config.noValue (s.freeDraws + 2) := rfl
@[simp] theorem State.hwReset_valid (s : State) : (s.hwReset).valid = false := rfl
@[simp] theorem State.hwReset_inputs (s : State) : (s.hwReset).inputs = s.inputs := rfl
@[simp] theorem State.hwReset_undelivered (s : State) : (s.hwReset).undelivered = [] := rfl
@[simp] theorem State.hwReset_delivered (s : State) : (s.hwReset).delivered = s.delivered := rfl
@[simp] theorem State.hwReset_freeDraws (s : State) : (s.hwReset).freeDraws = s.freeDraws + 3 := rfl

@[simp] theorem State.hwResetOver_eq (coinciding : Option CommandWord) (s : State) :
    s.hwResetOver coinciding = s.hwReset := rfl

@[simp] theorem State.takeResponse_poly (s : State) : s.takeResponse.poly = s.poly := by
  unfold State.takeResponse; split <;> rfl
@[simp] theorem State.takeResponse_init (s : State) : s.takeResponse.init = s.init := by
  unfold State.takeResponse; split <;> rfl
@[simp] theorem State.takeResponse_crc (s : State) : s.takeResponse.crc = s.crc := by
  unfold State.takeResponse; split <;> rfl
@[simp] theorem State.takeResponse_valid (s : State) : s.takeResponse.valid = s.valid := by
  unfold State.takeResponse; split <;> rfl
@[simp] theorem State.takeResponse_inputs (s : State) : s.takeResponse.inputs = s.inputs := by
  unfold State.takeResponse; split <;> rfl
@[simp] theorem State.takeResponse_freeDraws (s : State) : s.takeResponse.freeDraws = s.freeDraws := by
  unfold State.takeResponse; split <;> rfl
@[simp] theorem State.takeResponse_undelivered (s : State) : s.takeResponse.undelivered = s.undelivered.tail := by
  unfold State.takeResponse; split <;> simp [*]
@[simp] theorem State.takeResponse_delivered (s : State) :
    s.takeResponse.delivered = s.delivered ++ s.undelivered.take 1 := by
  unfold State.takeResponse; split <;> simp [*]

@[simp] theorem State.reset_valid : State.reset.valid = false := rfl
@[simp] theorem State.reset_inputs : State.reset.inputs = [] := rfl
@[simp] theorem State.reset_undelivered : State.reset.undelivered = [] := rfl
@[simp] theorem State.reset_delivered : State.reset.delivered = [] := rfl

@[simp] theorem State.feed_inputs (is : List Instr) (s : State) : (s.feed is).inputs = sends is := rfl
@[simp] theorem sends_nil : sends [] = [] := rfl
@[simp] theorem sends_cons (i : Instr) (is : List Instr) : sends (i :: is) = .command (encode i) :: sends is := rfl
@[simp] theorem updates_nil : updates [] = [] := rfl
@[simp] theorem updates_cons (b : Byte) (bs : List Byte) : updates (b :: bs) = .update b :: updates bs := rfl

/-- Two states with equal fields are equal. -/
theorem State.ext_fields {s t : State} (hp : s.poly = t.poly) (hi : s.init = t.init) (hc : s.crc = t.crc)
    (hv : s.valid = t.valid) (hn : s.inputs = t.inputs) (hu : s.undelivered = t.undelivered)
    (hd : s.delivered = t.delivered) (hf : s.freeDraws = t.freeDraws) : s = t := by
  cases s; cases t; simp_all

end Sys2Proof.Machine
end

