-- ==== Sys2Proof/Laws/Ops.lean ====
section
/-! SUPPORT. One specification lemma per shared operation: everything the guarded read, the two channel operations and
the folds can do, for later proofs to cite instead of unfolding them. -/

namespace Sys2Proof.Machine

/-! ### The guarded read -/

theorem readReg_of_valid {r : Reg} {s : State} {go : Byte → Host.Outcome State Fault Refusal} (h : s.valid = true) :
    readReg r s go = go (s.reg r) := by simp [readReg, h]

theorem readReg_of_not_valid {r : Reg} {s : State} {go : Byte → Host.Outcome State Fault Refusal}
    (h : s.valid = false) : readReg r s go = .refused .notConstructed := by simp [readReg, h]

/-- The guarded read goes on exactly when an engine has been constructed. -/
theorem readReg_eq_next {r : Reg} {s t : State} {go : Byte → Host.Outcome State Fault Refusal} :
    readReg r s go = .next t ↔ s.valid = true ∧ go (s.reg r) = .next t := by
  cases h : s.valid <;> simp [readReg, h]

/-! ### The channels -/

/-- Taking a response moves it from one end of the observation to the other and changes nothing else. -/
@[simp] theorem State.takeResponse_observation (s : State) : s.takeResponse.observation = s.observation := by
  simp only [State.observation, State.takeResponse_undelivered, State.takeResponse_delivered, List.append_assoc]
  cases s.undelivered <;> rfl

@[simp] theorem State.respond_observation (v : Byte) (s : State) :
    (s.respond v).observation = s.observation ++ [v] := by
  simp [State.observation]

@[simp] theorem State.writeCrc_observation (v : Byte) (s : State) : (s.writeCrc v).observation = s.observation := rfl
@[simp] theorem State.construct_observation (p i : Byte) (s : State) :
    (s.construct p i).observation = s.observation := rfl
@[simp] theorem State.withInputs_observation (evs : List HostEvent) (s : State) :
    (s.withInputs evs).observation = s.observation := rfl
/-- A hardware reset keeps what was delivered and loses the rest. -/
@[simp] theorem State.hwReset_observation (s : State) : s.hwReset.observation = s.delivered := by
  simp [State.observation]

@[simp] theorem State.withInputs_withInputs (a b : List HostEvent) (s : State) :
    (s.withInputs a).withInputs b = s.withInputs b := rfl

/-! ### The fold over a message -/

@[simp] theorem crc8_nil (p c : Byte) : crc8 p c [] = c := rfl
@[simp] theorem crc8_cons (p c b : Byte) (bs : List Byte) : crc8 p c (b :: bs) = crc8 p (update c p b) bs := rfl

/-- A step with the feedback bit set. -/
theorem lfsrStep_of_feedback {c p : Byte} (h : feedback c = true) : lfsrStep c p = shl1 c ^^^ p := by
  simp [lfsrStep, h]

/-- A step with the feedback bit clear. -/
theorem lfsrStep_of_not_feedback {c p : Byte} (h : feedback c = false) : lfsrStep c p = shl1 c := by
  simp [lfsrStep, h]

end Sys2Proof.Machine
end

