-- ==== Sys2Proof/Laws/Exec.lean ====
section
/-! SUPPORT. What each command can do (one lemma per meaning), and what any command can do (one inversion lemma). -/

namespace Sys2Proof.Machine

theorem execResult_eq_next {s t : State} : execResult s = .next t ↔ s.valid = true ∧ s.respond s.crc = t := by
  simp [execResult, readReg_eq_next]

theorem execUpdate_eq_next {b : Byte} {s t : State} :
    execUpdate b s = .next t ↔ s.valid = true ∧ s.writeCrc (update s.crc s.poly b) = t := by
  simp [execUpdate, readReg_eq_next]

theorem execReset_eq_next {s t : State} : execReset s = .next t ↔ s.valid = true ∧ s.writeCrc s.init = t := by
  simp [execReset, readReg_eq_next]

theorem execConstruct_eq_next {p i : Byte} {s t : State} : execConstruct p i s = .next t ↔ s.construct p i = t := by
  simp [execConstruct]

/-- No command looks at the events still to come: it does the same whatever they are (R34). -/
theorem exec_withInputs (i : Instr) (s : State) (evs : List HostEvent) :
    exec i (s.withInputs evs) = match exec i s with
      | .next t => .next (t.withInputs evs)
      | .fault e => .fault e
      | .refused r => .refused r := by
  cases i <;> cases h : s.valid <;>
    simp [exec, execResult, execUpdate, execReset, execConstruct, readReg, h] <;> rfl

/-- Every way a command reaches a next state. -/
theorem exec_cases {i : Instr} {s t : State} (h : exec i s = .next t) :
    (i = .result ∧ s.valid = true ∧ t = s.respond s.crc) ∨
    (∃ b, i = .update b ∧ s.valid = true ∧ t = s.writeCrc (update s.crc s.poly b)) ∨
    (i = .reset ∧ s.valid = true ∧ t = s.writeCrc s.init) ∨
    (∃ p j, i = .construct p j ∧ t = s.construct p j) := by
  cases i with
  | result => exact .inl ⟨rfl, (execResult_eq_next.1 h).1, (execResult_eq_next.1 h).2.symm⟩
  | update b => exact .inr (.inl ⟨b, rfl, (execUpdate_eq_next.1 h).1, (execUpdate_eq_next.1 h).2.symm⟩)
  | reset => exact .inr (.inr (.inl ⟨rfl, (execReset_eq_next.1 h).1, (execReset_eq_next.1 h).2.symm⟩))
  | construct p j => exact .inr (.inr (.inr ⟨p, j, rfl, (execConstruct_eq_next.1 h).symm⟩))

end Sys2Proof.Machine
end

