-- ==== Sys2Proof/Laws/PerInstr.lean ====
section
/-! SUPPORT. Statements about every command as syntax, one lemma per constructor: the canonical word of a command lies
in its own row of the table (R41) and has every ignored bit 0 (R42). -/

namespace Sys2Proof.Laws

/-- "(w and mask) = match" for the canonical word `w` of the command (R41), with `match` its selector in bits 17:16. -/
def TableRow.Statement (i : Instr) : Prop := encode i &&& 0x30000#18 = (opcode i ++ 0#16)

theorem TableRow.result : TableRow.Statement .result := by
  unfold TableRow.Statement; decide
theorem TableRow.update (b : Byte) : TableRow.Statement (.update b) := by
  refine BitVec.eq_of_getLsbD_eq fun k hk => ?_
  show ((opcode (.update b) ++ b ++ 0#8) &&& 0x30000#18).getLsbD k = (0b01#2 ++ 0#16).getLsbD k
  simp only [BitVec.getLsbD_and, BitVec.getLsbD_append]
  interval_cases k <;> simp [opcode]
theorem TableRow.reset : TableRow.Statement .reset := by
  unfold TableRow.Statement; decide
theorem TableRow.construct (p i : Byte) : TableRow.Statement (.construct p i) := by
  refine BitVec.eq_of_getLsbD_eq fun k hk => ?_
  show ((opcode (.construct p i) ++ p ++ i) &&& 0x30000#18).getLsbD k = (0b11#2 ++ 0#16).getLsbD k
  simp only [BitVec.getLsbD_and, BitVec.getLsbD_append]
  interval_cases k <;> simp [opcode]

/-- "The canonical word has every ignored bit 0" (R42). -/
def IgnoredZero.Statement (i : Instr) : Prop := encode i &&& ignoredBits i = 0#18

theorem IgnoredZero.result : IgnoredZero.Statement .result := by
  unfold IgnoredZero.Statement; decide
theorem IgnoredZero.update (b : Byte) : IgnoredZero.Statement (.update b) := by
  refine BitVec.eq_of_getLsbD_eq fun k hk => ?_
  show ((opcode (.update b) ++ b ++ 0#8) &&& 0x000FF#18).getLsbD k = (0#18).getLsbD k
  simp only [BitVec.getLsbD_and, BitVec.getLsbD_append]
  interval_cases k <;> simp
theorem IgnoredZero.reset : IgnoredZero.Statement .reset := by
  unfold IgnoredZero.Statement; decide
theorem IgnoredZero.construct (p i : Byte) : IgnoredZero.Statement (.construct p i) := by
  simp [IgnoredZero.Statement, ignoredBits]

end Sys2Proof.Laws
end

