-- ==== Sys2Proof/Laws/Step.lean ====
section
/-! SUPPORT. What a step can do, case by case of the host's next event, and how runs compose. -/

namespace Sys2Proof.Machine

theorem step_idle {s : State} (h : s.inputs = []) : step s = .next s := by simp [step, h]

theorem step_command {s : State} {w : CommandWord} {rest : List HostEvent} (h : s.inputs = .command w :: rest) :
    step s = exec (decode w) (s.withInputs rest) := by simp [step, h]

theorem step_hardwareReset {s : State} {c : Option CommandWord} {rest : List HostEvent}
    (h : s.inputs = .hardwareReset c :: rest) : step s = .next (s.withInputs rest).hwReset := by simp [step, h]

theorem step_takeResponse {s : State} {rest : List HostEvent} (h : s.inputs = .takeResponse :: rest) :
    step s = .next (s.withInputs rest).takeResponse := by simp [step, h]

/-- Every way a step reaches a next state. -/
theorem step_cases {s t : State} (h : step s = .next t) :
    (s.inputs = [] ∧ t = s) ∨
    (∃ w rest, s.inputs = .command w :: rest ∧ exec (decode w) (s.withInputs rest) = .next t) ∨
    (∃ c rest, s.inputs = .hardwareReset c :: rest ∧ t = (s.withInputs rest).hwReset) ∨
    (∃ rest, s.inputs = .takeResponse :: rest ∧ t = (s.withInputs rest).takeResponse) := by
  rcases hi : s.inputs with _ | ⟨_ | _ | _, rest⟩
  · rw [step_idle hi] at h; exact .inl ⟨rfl, by simpa using h.symm⟩
  · rw [step_command hi] at h; exact .inr (.inl ⟨_, _, rfl, h⟩)
  · rw [step_hardwareReset hi] at h; exact .inr (.inr (.inl ⟨_, _, rfl, by simpa using h.symm⟩))
  · rw [step_takeResponse hi] at h; exact .inr (.inr (.inr ⟨_, rfl, by simpa using h.symm⟩))

/-! ### Runs -/

@[simp] theorem run_zero (s : State) : run 0 s = .next s := rfl

/-- One step, then the rest of the run from where it leads; a refusal ends the run. -/
theorem run_succ (k : Nat) (s : State) :
    run (k + 1) s = match step s with
      | .next t => run k t
      | .fault r => .fault r
      | .refused r => .refused r := rfl

theorem run_succ_of_next {k : Nat} {s t : State} (h : step s = .next t) : run (k + 1) s = run k t := by
  rw [run_succ, h]

theorem run_succ_of_refused {k : Nat} {s : State} {r : Refusal} (h : step s = .refused r) :
    run (k + 1) s = .refused r := by
  rw [run_succ, h]

theorem hostRun_succ_of_next {M : Host.Core} {k : Nat} {s t : M.State} (h : M.step s = .next t) :
    M.run (k + 1) s = M.run k t := by
  rw [Host.Core.run, h]

theorem hostRun_succ_of_refused {M : Host.Core} {k : Nat} {s : M.State} {r : M.Refusal} (h : M.step s = .refused r) :
    M.run (k + 1) s = .refused r := by
  rw [Host.Core.run, h]

/-- `run` is the host's run of `core`. -/
theorem run_eq_core_run (k : Nat) (s : State) : run k s = core.run k s := by
  induction k generalizing s with
  | zero => rfl
  | succ k ih =>
    have hc : core.step s = step s := rfl
    cases hs : step s with
    | next t =>
      rw [run_succ_of_next hs, ih t]
      exact (hostRun_succ_of_next (M := core) (hc.trans hs)).symm
    | fault e => cases e
    | refused r =>
      rw [run_succ_of_refused hs]
      exact (hostRun_succ_of_refused (M := core) (hc.trans hs)).symm

/-- A run of `k` steps that reaches a next state goes on from there. -/
theorem run_add_of_next {k m : Nat} {s t : State} (h : run k s = .next t) : run (k + m) s = run m t := by
  induction k generalizing s with
  | zero =>
    obtain rfl : s = t := by simpa using h
    rw [Nat.zero_add]
  | succ k ih =>
    rw [Nat.succ_add]
    cases hs : step s with
    | next u => rw [run_succ_of_next hs] at h ⊢; exact ih h
    | fault r => cases r
    | refused r => rw [run_succ_of_refused hs] at h; exact nomatch h

end Sys2Proof.Machine
end

