-- ==== Sys2Proof/Tests/Slice0.lean ====
section
/-! SUPPORT. Tests: words written out from the encoding (30_encoding.md section 7, 95_test_vectors.md section 2.1),
one step or one command on small states with the expected results of 95_test_vectors.md, the well-formedness smoke
tests, and a witness for the hypotheses of every statement. -/

open Sys2Proof Sys2Proof.Machine

/-- A block with these registers and quiet channels. -/
def Sys2Proof.Tests.block (p i c : Byte) (v : Bool) : State :=
  { poly := p, init := i, crc := c, valid := v, inputs := [], undelivered := [], delivered := [], freeDraws := 0 }

open Sys2Proof.Tests

/-! ### Well-formedness: each check refuses an ill-formed number -/

theorem test_word_of_18_bits : wellFormedWord 0x3FFFF = true ∧ wellFormedWord 0x40000 = false := by decide
theorem test_operand_of_8_bits : wellFormedOperand 255 = true ∧ wellFormedOperand 256 = false := by decide
theorem test_every_command_is_well_formed : (Instr.construct 0xFF 0xFF).wellFormed = true := by decide
theorem test_ill_formed_word_rejected_by_name : (decodeNat 0x40000).toOption = none := by decide
theorem test_ill_formed_operand_rejected : (parseOperand "256".toList).toOption = none := by decide

/-! ### Decoding, bit 17 first -/

theorem test_decode_result : decode 0b00_0000000000000000#18 = .result := by decide
theorem test_decode_result_ignored_bits : decode 0b00_1011111011101111#18 = .result := by decide
theorem test_decode_update : decode 0b01_10101011_11001101#18 = .update 0xAB := by decide
theorem test_decode_reset : decode 0b10_1111111111111111#18 = .reset := by decide
theorem test_decode_construct : decode 0b11_00110001_11111111#18 = .construct 0x31 0xFF := by decide
theorem test_decodeTableWord : decodeTableWord 24 0x13100 = some (.update 0x31) := by decide
theorem test_encode_construct : encode (.construct 0x07 0x00) = 0x30700#18 := by decide
theorem test_encode_update : encode (.update 0x31) = 0x13100#18 := by decide

/-! ### The engine (V24, V34, V37, V43, V52, V41, V42) -/

theorem test_step_with_feedback : lfsrStep 0xFF 0x07 = 0xF9 := by decide
theorem test_step_cancels : lfsrStep 0x83 0x06 = 0x00 := by decide
theorem test_update_80 : update 0x00 0x07 0x80 = 0x89 := by decide
theorem test_update_31 : update 0xFF 0x31 0xAB = 0xBA := by decide
theorem test_update_even_polynomial : update 0x00 0x80 0x01 = 0x80 := by decide
theorem test_update_second_byte : update 0x97 0x07 0x32 = 0x72 := by decide
theorem test_crc8_of_one_byte : crc8 0x07 0x00 [0x31] = 0x97 := by decide

/-! ### The commands (V59, V63, V41, V67, V111) -/

theorem test_construct_discards_old :
    nextOf (exec (.construct 0x31 0xFF) (block 0x07 0x00 0xF4 true)) = some (block 0x31 0xFF 0xFF true) := by decide
theorem test_construct_first :
    nextOf (exec (.construct 0x07 0x00) (block 0x55 0x66 0x77 false)) = some (block 0x07 0x00 0x00 true) := by decide
theorem test_reset : nextOf (exec .reset (block 0x31 0xFF 0xBA true)) = some (block 0x31 0xFF 0xFF true) := by decide
theorem test_reset_refused : isNotConstructed (exec .reset (block 0x31 0xFF 0xBA false)) = true := by decide
theorem test_update :
    nextOf (exec (.update 0x31) (block 0x07 0x00 0x00 true)) = some (block 0x07 0x00 0x97 true) := by decide
theorem test_update_refused : isNotConstructed (exec (.update 0x01) State.reset) = true := by decide
theorem test_result :
    nextOf (exec .result (block 0x07 0x00 0xF4 true)) =
      some { block 0x07 0x00 0xF4 true with undelivered := [0xF4] } := by decide
theorem test_result_refused : isNotConstructed (exec .result State.reset) = true := by decide

/-! ### Steps -/

theorem test_first_step_after_reset_constructs :
    (nextOf (step (State.reset.withFetchWord 24 0x30700))).map (fun t => (t.poly, t.init, t.crc, t.valid)) =
      some (0x07, 0x00, 0x00, true) := by decide
theorem test_step_ignores_ignored_bits :
    nextOf (step ((block 0x31 0xFF 0xBA true).withFetchWord 24 0x2FFFF)) = some (block 0x31 0xFF 0xFF true) := by decide
theorem test_hardware_reset_loses_undelivered :
    (nextOf (step { block 0x07 0x00 0x97 true with
        inputs := [.hardwareReset (some 0x10100#18)], undelivered := [0x97], delivered := [0x00] })).map
      (fun t => (t.valid, t.undelivered, t.delivered)) = some (false, [], [0x00]) := by decide
theorem test_take_oldest_response :
    nextOf (step { block 0x07 0x00 0x07 true with inputs := [.takeResponse], undelivered := [0x01, 0x02] }) =
      some { block 0x07 0x00 0x07 true with undelivered := [0x02], delivered := [0x01] } := by decide
theorem test_idle : nextOf (step (block 0x07 0x00 0x07 true)) = some (block 0x07 0x00 0x07 true) := by decide

/-! ### The assembler -/

theorem test_assemble_update_words :
    (assembleWords "UPDATE 0x31 ; first byte".toList).toOption = some [0x13100#18] := by decide
theorem test_assemble_operand_count : (assemble "UPDATE 1, 2".toList).toOption = none := by decide

/-! ### Witnesses: a concrete case that meets the hypotheses of each statement -/

/-- StepAsWires at both ends of its range, on a step with feedback (V24). -/
theorem witness_wires : 1 ≤ 1 ∧ 7 ≤ 7 ∧ (lfsrStep 0xFF 0x07).getLsbD 1 = false ∧ (lfsrStep 0xFF 0x07).getLsbD 7 = true := by
  decide
/-- FieldsOfTheCommandWord: the ends of each field, and every value of `op`. -/
theorem witness_fields :
    (operandA 0x08180#18).getLsbD 7 = true ∧ (operandA 0x08180#18).getLsbD 0 = true ∧
    (operandB 0x08180#18).getLsbD 7 = true ∧ (operandB 0x08180#18).getLsbD 0 = false ∧
    opField 0x00000#18 = 0b00#2 ∧ opField 0x1FF00#18 = 0b01#2 ∧ opField 0x2FFFF#18 = 0b10#2 ∧
    opField 0x3FFFF#18 = 0b11#2 := by decide
/-- DecodingFollowsMatchAndMask: a word for each row, the last of the row below and the first of its own. -/
theorem witness_rows :
    0x0FFFF#18 &&& 0x30000#18 = 0x00000#18 ∧ 0x10000#18 &&& 0x30000#18 = 0x10000#18 ∧
    0x2FFFF#18 &&& 0x30000#18 = 0x20000#18 ∧ 0x30000#18 &&& 0x30000#18 = 0x30000#18 := by decide
/-- DecodeInvertsEncode: a canonical and a non-canonical word. -/
theorem witness_canonical :
    0x1AB00#18 &&& ignoredBits (decode 0x1AB00#18) = 0#18 ∧ 0x1ABCD#18 &&& ignoredBits (decode 0x1ABCD#18) ≠ 0#18 := by
  decide
/-- IgnoredBitsChangeNothing: two different words of one command, and a text that assembles. -/
theorem witness_ignored :
    0x1ABCD#18 ≠ 0x1AB00#18 ∧
    0x1ABCD#18 &&& ~~~ ignoredBits (decode 0x1ABCD#18) = 0x1AB00#18 &&& ~~~ ignoredBits (decode 0x1ABCD#18) ∧
    (assemble "RESET".toList).toOption = some [.reset] := by decide
/-- EveryWordIsACommand at the two numbers where its clauses meet. -/
theorem witness_word_bounds : (262143 : Nat) < 262144 ∧ (262144 : Nat) ≤ 262144 := by decide
/-- DegeneratePolynomials: a non-empty message. -/
theorem witness_message : ([0x00] : List Byte) ≠ [] := by decide
/-- ExactlyNinePolynomialsIgnoreOrder: a permuted message, a polynomial outside the list. -/
theorem witness_permuted :
    List.Perm ([0x01, 0x02] : List Byte) [0x02, 0x01] ∧
    (0x07 : Byte) ∉ ([0x00, 0x01, 0x10, 0x40, 0x54, 0x80, 0x98, 0xE0, 0xFE] : List Byte) := by decide
/-- Every statement over "VALID = 1". -/
theorem witness_constructed :
    (block 0x07 0x00 0xF4 true).valid = true := by decide
/-- Every statement over "VALID = 0" and a command that is no CONSTRUCT. -/
theorem witness_not_constructed :
    (block 0x07 0x00 0xF4 false).valid = false ∧ Instr.isConstruct (.update 0x01) = false ∧
    ¬ ((block 0x07 0x00 0xF4 false).valid = false ∧ Instr.isConstruct (.construct 0x07 0x00) = false) := by decide
/-- RefusedExactlyBeforeConstruct: a run that is refused. -/
theorem witness_refused_run :
    isNotConstructed (run 1 ((block 0x07 0x00 0xF4 false).feed [.result])) = true := by decide
/-- RegistersAccessedAsTheTableSays: two different states that agree where UPDATE reads, and a register it does not
write. -/
theorem witness_access :
    (∀ r ∈ readsOf (.update 0x31), (block 0x07 0x00 0x00 true).reg r = (block 0x07 0xFF 0x00 true).reg r) ∧
    block 0x07 0x00 0x00 true ≠ block 0x07 0xFF 0x00 true ∧
    (block 0x07 0x00 0x00 true).valid = (block 0x07 0xFF 0x00 true).valid ∧
    nextOf (exec (.update 0x31) (block 0x07 0x00 0x00 true)) = some (block 0x07 0x00 0x97 true) ∧
    Reg.init ∉ writesOf (.update 0x31) := by decide
/-- OnlyResultResponds: RESULT and another command complete, and a response waits to be taken. -/
theorem witness_responses :
    (nextOf (exec .result (block 0x07 0x00 0xF4 true))).isSome = true ∧
    (nextOf (exec .reset (block 0x07 0x00 0xF4 true))).isSome = true ∧ Instr.reset ≠ .result ∧
    ({ block 0x07 0x00 0xF4 true with inputs := [.takeResponse], undelivered := [0xF4] } : State).inputs =
      .takeResponse :: [] := by decide
/-- IdempotencyOfCommands, SeededAfterConstructAndReset: a command of each kind completes. -/
theorem witness_completes :
    (nextOf (exec (.update 0x01) (block 0x07 0x00 0x00 true))).isSome = true ∧
    (nextOf (exec (.construct 0x07 0x00) (block 0x07 0x00 0x00 false))).isSome = true := by decide
/-- ParametersFixedThroughAnInstance: a stream within one instance. -/
theorem witness_within_instance :
    ∀ e ∈ ([.command 0x10100#18, .command 0x00000#18, .takeResponse, .command 0x20000#18] : List HostEvent),
      e.withinInstance = true := by decide
/-- StepRunsTheDecodedCommand, IdleBlockKeepsItsState, HardwareResetFromAnyState: the head of the channel. -/
theorem witness_channel :
    ((block 0x07 0x00 0x00 true).feed [.update 0x01]).inputs = .command (encode (.update 0x01)) :: [] ∧
    (block 0x07 0x00 0x00 true).inputs = [] ∧
    ((block 0x07 0x00 0x00 true).withInputs [.hardwareReset (some 0x10100#18)]).inputs =
      .hardwareReset (some 0x10100#18) :: [] := by decide
/-- WaitingResponsesNeedAnEngine: a state with a waiting response that meets the invariant, whose step is a hardware
reset (the case where the invariant has something to say). -/
theorem witness_waiting :
    let s := { block 0x07 0x00 0x97 true with inputs := [.hardwareReset none], undelivered := [0x97] }
    (s.valid = false → s.undelivered = []) ∧ (nextOf (step s)).isSome = true := by decide
/-- CarriedOutExactlyWhenConstructedFirst: a stream that keeps the duty and one that does not. -/
theorem witness_duty :
    constructsFirst false [.command 0x30700#18, .hardwareReset none, .takeResponse, .command 0x331FF#18] = true ∧
    constructsFirst true [.command 0x00000#18, .hardwareReset none, .command 0x00000#18] = false := by decide
/-- NoValueIsNeverObserved: two different states that differ in nothing but registers without a value. -/
theorem witness_no_value :
    sameButNoValue (block 0x07 0x00 0xF4 false) (block 0x31 0xFF 0xBA false) ∧
    block 0x07 0x00 0xF4 false ≠ block 0x31 0xFF 0xBA false := by
  unfold sameButNoValue; decide
/-- MissingResetCoversBothMessages: both ways to begin again. -/
theorem witness_begin_again :
    Instr.reset ∈ [Instr.reset, .construct 0x07 0x00] ∧ Instr.construct 0x07 0x00 ∈ [Instr.reset, .construct 0x07 0x00] := by
  decide
/-- DeliveryTimingIsNotObserved: a stream with a taking and no hardware reset that is carried out. -/
theorem witness_delivery :
    let s := { block 0x07 0x00 0x07 true with inputs := [.command 0x00000#18, .takeResponse] }
    (∀ c, .hardwareReset c ∉ s.inputs) ∧
    (nextOf (run 2 s)).map (fun t => (t.delivered, t.undelivered)) = some ([0x07], []) := by
  refine ⟨fun c hc => ?_, by decide⟩
  simp at hc
end

section
/-! Proofs about the registers (10_state.md): how each command completes, which registers it writes and which it reads. -/

namespace Sys2Proof.Machine

/-! ### Completion: the next state of each command -/

theorem exec_result_of_valid {s : State} (h : s.valid = true) : exec .result s = .next (s.respond s.crc) :=
  execResult_eq_next.2 ⟨h, rfl⟩

theorem exec_update_of_valid (b : Byte) {s : State} (h : s.valid = true) :
    exec (.update b) s = .next (s.writeCrc (update s.crc s.poly b)) :=
  execUpdate_eq_next.2 ⟨h, rfl⟩

theorem exec_reset_of_valid {s : State} (h : s.valid = true) : exec .reset s = .next (s.writeCrc s.init) :=
  execReset_eq_next.2 ⟨h, rfl⟩

/-- CONSTRUCT needs no engine (R48). -/
theorem exec_construct (p i : Byte) (s : State) : exec (.construct p i) s = .next (s.construct p i) :=
  execConstruct_eq_next.2 rfl

/-- While VALID is 1 every command completes (R66). -/
theorem exec_completes_of_valid (i : Instr) {s : State} (h : s.valid = true) : ∃ t, exec i s = .next t := by
  cases i with
  | result => exact ⟨_, exec_result_of_valid h⟩
  | update b => exact ⟨_, exec_update_of_valid b h⟩
  | reset => exact ⟨_, exec_reset_of_valid h⟩
  | construct p j => exact ⟨_, exec_construct p j s⟩

/-! ### Registers by name -/

@[simp] theorem State.respond_reg (v : Byte) (s : State) (r : Reg) : (s.respond v).reg r = s.reg r := by
  cases r <;> rfl

theorem State.writeCrc_reg_of_ne {r : Reg} (h : r ≠ .crc) (v : Byte) (s : State) :
    (s.writeCrc v).reg r = s.reg r := by
  cases r with
  | poly => rfl
  | init => rfl
  | crc => exact absurd rfl h

/-- After CONSTRUCT no register depends on what the state held before (R48). -/
theorem State.construct_reg_congr (p i : Byte) (s s' : State) (r : Reg) :
    (s.construct p i).reg r = (s'.construct p i).reg r := by
  cases r <;> rfl

/-! ### Frame: what a command does not write (R18) -/

theorem mem_writesOf_construct (p j : Byte) (r : Reg) : r ∈ writesOf (.construct p j) := by
  cases r <;> simp [writesOf]

theorem exec_keeps_unwritten {i : Instr} {s t : State} (h : exec i s = .next t) {r : Reg} (hr : r ∉ writesOf i) :
    t.reg r = s.reg r := by
  obtain ⟨rfl, -, rfl⟩ | ⟨b, rfl, -, rfl⟩ | ⟨rfl, -, rfl⟩ | ⟨p, j, rfl, rfl⟩ := exec_cases h
  · exact State.respond_reg _ s r
  · exact State.writeCrc_reg_of_ne (List.ne_of_not_mem_cons hr) _ s
  · exact State.writeCrc_reg_of_ne (List.ne_of_not_mem_cons hr) _ s
  · exact absurd (mem_writesOf_construct p j r) hr

theorem exec_keeps_valid {i : Instr} {s t : State} (h : exec i s = .next t) (hi : i.isConstruct = false) :
    t.valid = s.valid := by
  obtain ⟨rfl, -, rfl⟩ | ⟨b, rfl, -, rfl⟩ | ⟨rfl, -, rfl⟩ | ⟨p, j, rfl, -⟩ := exec_cases h
  · rfl
  · rfl
  · rfl
  · exact nomatch hi

/-- Only CONSTRUCT writes POLY or INIT (R15). -/
theorem not_mem_writesOf_of_ne_crc {i : Instr} (hi : i.isConstruct = false) {r : Reg} (hr : r ≠ .crc) :
    r ∉ writesOf i := by
  cases i with
  | result => exact List.not_mem_nil
  | update b => simpa [writesOf] using hr
  | reset => simpa [writesOf] using hr
  | construct p j => exact nomatch hi

/-! ### Non-influence: what a command does not read (R18) -/

/-- What two outcomes of one command have in common when it cannot tell the states before apart: the values it wrote
and the responses it added. -/
def sameEffect (i : Instr) (s t s' t' : State) : Prop :=
  (∀ r ∈ writesOf i, t.reg r = t'.reg r) ∧
    ∀ rs, t.undelivered = s.undelivered ++ rs → t'.undelivered = s'.undelivered ++ rs

/-- Commands that write one value to CRC and respond with nothing have the same effect when the values are equal. -/
theorem sameEffect_writeCrc {i : Instr} (hi : writesOf i = [.crc]) {v v' : Byte} (hv : v = v') (s s' : State) :
    sameEffect i s (s.writeCrc v) s' (s'.writeCrc v') := by
  refine ⟨fun r hr => ?_, fun rs hrs => ?_⟩
  · obtain rfl : r = .crc := by simpa [hi] using hr
    exact hv
  · obtain rfl : rs = [] := by simpa using hrs
    simp

theorem sameEffect_respond {v v' : Byte} (hv : v = v') (s s' : State) :
    sameEffect .result s (s.respond v) s' (s'.respond v') := by
  refine ⟨fun r hr => absurd hr List.not_mem_nil, fun rs hrs => ?_⟩
  obtain rfl : [v] = rs := List.append_cancel_left hrs
  simp [hv]

theorem sameEffect_construct (p j : Byte) (s s' : State) :
    sameEffect (.construct p j) s (s.construct p j) s' (s'.construct p j) := by
  refine ⟨fun r _ => State.construct_reg_congr p j s s' r, fun rs hrs => ?_⟩
  obtain rfl : rs = [] := by simpa using hrs
  simp

/-- A command sees the state through the registers it reads, and through VALID unless it is a CONSTRUCT. -/
theorem exec_sameEffect_of_reads {i : Instr} {s s' t : State} (hreads : ∀ r ∈ readsOf i, s.reg r = s'.reg r)
    (hvalid : i.isConstruct = true ∨ s.valid = s'.valid) (h : exec i s = .next t) :
    ∃ t', exec i s' = .next t' ∧ sameEffect i s t s' t' := by
  have hvalid' (hi : i.isConstruct = false) (hs : s.valid = true) : s'.valid = true := by
    simpa [hi, hs] using hvalid
  obtain ⟨rfl, hs, rfl⟩ | ⟨b, rfl, hs, rfl⟩ | ⟨rfl, hs, rfl⟩ | ⟨p, j, rfl, rfl⟩ := exec_cases h
  · have hcrc : s.crc = s'.crc := hreads .crc (by decide)
    exact ⟨_, exec_result_of_valid (hvalid' rfl hs), sameEffect_respond hcrc s s'⟩
  · have hcrc : s.crc = s'.crc := hreads .crc (by simp [readsOf])
    have hpoly : s.poly = s'.poly := hreads .poly (by simp [readsOf])
    exact ⟨_, exec_update_of_valid b (hvalid' rfl hs), sameEffect_writeCrc rfl (by rw [hcrc, hpoly]) s s'⟩
  · have hinit : s.init = s'.init := hreads .init (by decide)
    exact ⟨_, exec_reset_of_valid (hvalid' rfl hs), sameEffect_writeCrc rfl hinit s s'⟩
  · exact ⟨_, exec_construct p j s', sameEffect_construct p j s s'⟩

/-! ### The statements -/

/-- Settles O27: the two columns as the table gives them, then the frame, then non-influence. -/
theorem registersAccessedAsTheTableSays : Obligations.RegistersAccessedAsTheTableSays := by
  unfold Obligations.RegistersAccessedAsTheTableSays
  refine ⟨⟨rfl, fun _ => rfl, rfl, fun _ _ => rfl⟩, ⟨rfl, fun _ => rfl, rfl, fun _ _ => rfl⟩, ?frame, ?reads⟩
  case frame => exact fun i s t h => ⟨fun r hr => exec_keeps_unwritten h hr, exec_keeps_valid h⟩
  case reads => exact fun i s s' t hreads hvalid h => exec_sameEffect_of_reads hreads hvalid h

/-- Settles O29: with VALID = 1 the command completes, and POLY and INIT are not among the registers it writes. -/
theorem parametersUnchangedByACommand : Obligations.ParametersUnchangedByACommand := by
  unfold Obligations.ParametersUnchangedByACommand
  intro i s hi hs
  obtain ⟨t, ht⟩ := exec_completes_of_valid i hs
  have hkeeps (r : Reg) (hr : r ≠ .crc) : t.reg r = s.reg r :=
    exec_keeps_unwritten ht (not_mem_writesOf_of_ne_crc hi hr)
  exact ⟨t, ht, hkeeps .poly (by decide), hkeeps .init (by decide)⟩

/-- Settles O31, from the next states of CONSTRUCT and RESET. -/
theorem seededAfterConstructAndReset : Obligations.SeededAfterConstructAndReset := by
  unfold Obligations.SeededAfterConstructAndReset
  refine ⟨fun p i s => ?construct, fun s hs => ?reset⟩
  case construct => exact ⟨_, exec_construct p i s, State.construct_crc p i s, State.construct_init p i s⟩
  case reset =>
    refine ⟨_, exec_reset_of_valid hs, ?_⟩
    rw [State.writeCrc_crc, State.writeCrc_init]

end Sys2Proof.Machine
end

section
/-! Proofs about sequences of commands (20_memory.md): the host's word comes back as the command it was encoded from,
so one step executes one command, and a run is the fold. -/

namespace Sys2Proof

/-! ### Decoding a canonical word -/

theorem opField_encode (i : Instr) : opField (encode i) = opcode i := by
  cases i <;> exact opField_append _ _ _

theorem operandA_encode_update (b : Byte) : operandA (encode (.update b)) = b := operandA_append _ b _
theorem operandA_encode_construct (p j : Byte) : operandA (encode (.construct p j)) = p := operandA_append _ p j
theorem operandB_encode_construct (p j : Byte) : operandB (encode (.construct p j)) = j := operandB_append _ p j

/-- The two bits the decoder looks at, in a canonical word, are those of the selector of R41. -/
theorem decode_bits_encode (i : Instr) :
    (encode i).getLsbD 17 = (opcode i).getLsbD 1 ∧ (encode i).getLsbD 16 = (opcode i).getLsbD 0 := by
  rw [← opField_encode]
  exact decode_bits (encode i)

/-- The decoder reads back every command from its canonical word (R44). -/
@[simp] theorem decode_encode (i : Instr) : decode (encode i) = i := by
  obtain ⟨h17, h16⟩ := decode_bits_encode i
  rw [decode, h17, h16]
  cases i with
  | result => rfl
  | update b => simp [opcode, operandA_encode_update]
  | reset => rfl
  | construct p j => simp [opcode, operandA_encode_construct, operandB_encode_construct]

end Sys2Proof

namespace Sys2Proof.Machine

/-! ### The command being executed does not see the commands behind it (R34) -/

theorem exec_withInputs_of_next {i : Instr} {s t : State} (h : exec i s = .next t) (evs : List HostEvent) :
    exec i (s.withInputs evs) = .next (t.withInputs evs) := by
  rw [exec_withInputs, h]

theorem exec_withInputs_of_refused {i : Instr} {s : State} {r : Refusal} (h : exec i s = .refused r)
    (evs : List HostEvent) : exec i (s.withInputs evs) = .refused r := by
  rw [exec_withInputs, h]

/-! ### The fold over commands, one command at a time -/

theorem execAll_cons_of_next {i : Instr} {s t : State} (h : exec i s = .next t) (is : List Instr) :
    execAll (i :: is) s = execAll is t := by
  rw [execAll, h]

theorem execAll_cons_of_refused {i : Instr} {s : State} {r : Refusal} (h : exec i s = .refused r) (is : List Instr) :
    execAll (i :: is) s = .refused r := by
  rw [execAll, h]

/-! ### A host that sends commands -/

/-- One step executes the first command and leaves the others on the channel. -/
theorem step_feed_cons (i : Instr) (is : List Instr) (s : State) :
    step (s.feed (i :: is)) = exec i (s.withInputs (sends is)) := by
  have hstep : step (s.feed (i :: is)) = exec (decode (encode i)) ((s.feed (i :: is)).withInputs (sends is)) :=
    step_command (State.feed_inputs (i :: is) s)
  rw [hstep, decode_encode, State.feed, State.withInputs_withInputs]

theorem step_feed_cons_of_next {i : Instr} {s t : State} (h : exec i s = .next t) (is : List Instr) :
    step (s.feed (i :: is)) = .next (t.feed is) :=
  (step_feed_cons i is s).trans (exec_withInputs_of_next h (sends is))

theorem step_feed_cons_of_refused {i : Instr} {s : State} {r : Refusal} (h : exec i s = .refused r)
    (is : List Instr) : step (s.feed (i :: is)) = .refused r :=
  (step_feed_cons i is s).trans (exec_withInputs_of_refused h (sends is))

/-- A run with one step per command is the fold of `exec` over the commands (R34), refusals included. -/
theorem run_feed (is : List Instr) (s : State) : run is.length (s.feed is) = execAll is (s.withInputs []) := by
  induction is generalizing s with
  | nil => rfl
  | cons i is ih =>
    cases h : exec i s with
    | next t =>
      calc run (is.length + 1) (s.feed (i :: is))
          = run is.length (t.feed is) := run_succ_of_next (step_feed_cons_of_next h is)
        _ = execAll is (t.withInputs []) := ih t
        _ = execAll (i :: is) (s.withInputs []) := (execAll_cons_of_next (exec_withInputs_of_next h []) is).symm
    | fault e => exact nomatch e
    | refused r =>
      calc run (is.length + 1) (s.feed (i :: is))
          = .refused r := run_succ_of_refused (step_feed_cons_of_refused h is)
        _ = execAll (i :: is) (s.withInputs []) :=
            (execAll_cons_of_refused (exec_withInputs_of_refused h []) is).symm

/-! ### The statement -/

/-- Settles O39, by induction on the commands: one step takes one command off the channel and is one step of the fold. -/
theorem runIsTheFoldOfTheCommands : Obligations.RunIsTheFoldOfTheCommands := by
  unfold Obligations.RunIsTheFoldOfTheCommands
  exact fun s is => run_feed is s

end Sys2Proof.Machine
end

section
/-! Proofs about the encoding (30_encoding.md): the selector `op` decides the command, the mask of R41 keeps exactly
`op`, clearing the ignored bits of R42 changes nothing the decoder looks at, and CRCBUF (R46) runs as the fold. -/

namespace Sys2Proof

/-! ### The command each value of `op` selects -/

theorem decode_of_opField_result {w : CommandWord} (h : opField w = 0b00#2) : decode w = .result := by
  obtain ⟨h17, h16⟩ := decode_bits w
  rw [decode, h17, h16, h]
  rfl

theorem decode_of_opField_update {w : CommandWord} (h : opField w = 0b01#2) : decode w = .update (operandA w) := by
  obtain ⟨h17, h16⟩ := decode_bits w
  rw [decode, h17, h16, h]
  rfl

theorem decode_of_opField_reset {w : CommandWord} (h : opField w = 0b10#2) : decode w = .reset := by
  obtain ⟨h17, h16⟩ := decode_bits w
  rw [decode, h17, h16, h]
  rfl

theorem decode_of_opField_construct {w : CommandWord} (h : opField w = 0b11#2) :
    decode w = .construct (operandA w) (operandB w) := by
  obtain ⟨h17, h16⟩ := decode_bits w
  rw [decode, h17, h16, h]
  rfl

/-- The selector has four values (R41). -/
theorem opField_cases (w : CommandWord) :
    opField w = 0b00#2 ∨ opField w = 0b01#2 ∨ opField w = 0b10#2 ∨ opField w = 0b11#2 := by
  have hall : ∀ o : BitVec 2, o = 0b00#2 ∨ o = 0b01#2 ∨ o = 0b10#2 ∨ o = 0b11#2 := by decide
  exact hall (opField w)

/-- A word decodes to a command of the row its selector names. -/
theorem opcode_decode (w : CommandWord) : opcode (decode w) = opField w := by
  obtain h | h | h | h := opField_cases w
  · rw [decode_of_opField_result h, h, opcode]
  · rw [decode_of_opField_update h, h, opcode]
  · rw [decode_of_opField_reset h, h, opcode]
  · rw [decode_of_opField_construct h, h, opcode]

/-! ### The mask of R41 -/

theorem and_mask_eq_append (w : CommandWord) : w &&& 0x30000#18 = opField w ++ 0#16 := by
  refine BitVec.eq_of_getLsbD_eq fun k hk => ?_
  simp only [BitVec.getLsbD_and, BitVec.getLsbD_append, opField, BitVec.getLsbD_extractLsb']
  interval_cases k <;> simp

/-- A word matches the row of a selector exactly when it has that selector. -/
theorem and_mask_eq_iff (w : CommandWord) (o : BitVec 2) : w &&& 0x30000#18 = o ++ 0#16 ↔ opField w = o := by
  rw [and_mask_eq_append, BitVec.append_left_inj]

/-! ### The ignored bits of R42 -/

/-- No bit of the selector is ignored. -/
theorem opField_and_not_ignoredBits (i : Instr) (w : CommandWord) :
    opField (w &&& ~~~ ignoredBits i) = opField w := by
  have hop : opField (~~~ ignoredBits i) = BitVec.allOnes 2 := by
    cases i <;> simp only [ignoredBits] <;> decide
  calc opField (w &&& ~~~ ignoredBits i)
      = opField w &&& opField (~~~ ignoredBits i) := BitVec.extractLsb'_and
    _ = opField w := by rw [hop, BitVec.and_allOnes]

/-- No bit of the operand of UPDATE is ignored. -/
theorem operandA_and_not_ignoredBits_update (b : Byte) (w : CommandWord) :
    operandA (w &&& ~~~ ignoredBits (.update b)) = operandA w := by
  have hA : operandA (~~~ ignoredBits (.update b)) = BitVec.allOnes 8 := by
    simp only [ignoredBits]; decide
  calc operandA (w &&& ~~~ ignoredBits (.update b))
      = operandA w &&& operandA (~~~ ignoredBits (.update b)) := BitVec.extractLsb'_and
    _ = operandA w := by rw [hA, BitVec.and_allOnes]

/-- Clearing the ignored bits of the row a word lies in leaves the command it spells. -/
theorem decode_and_not_ignoredBits {i : Instr} {w : CommandWord} (h : opField w = opcode i) :
    decode (w &&& ~~~ ignoredBits i) = decode w := by
  have h' : opField (w &&& ~~~ ignoredBits i) = opcode i := (opField_and_not_ignoredBits i w).trans h
  cases i with
  | result => rw [decode_of_opField_result h', decode_of_opField_result h]
  | update b =>
    rw [decode_of_opField_update h', decode_of_opField_update h, operandA_and_not_ignoredBits_update]
  | reset => rw [decode_of_opField_reset h', decode_of_opField_reset h]
  | construct p j => rw [ignoredBits, BitVec.not_zero, BitVec.and_allOnes]

/-- Two words that differ only in ignored bits are the same command. -/
theorem decode_eq_of_and_not_ignoredBits {w w' : CommandWord}
    (h : w &&& ~~~ ignoredBits (decode w) = w' &&& ~~~ ignoredBits (decode w)) : decode w = decode w' := by
  have hop : opField w' = opcode (decode w) := by
    rw [← opField_and_not_ignoredBits (decode w) w', ← h, opField_and_not_ignoredBits, opcode_decode]
  calc decode w
      = decode (w &&& ~~~ ignoredBits (decode w)) := (decode_and_not_ignoredBits (opcode_decode w).symm).symm
    _ = decode (w' &&& ~~~ ignoredBits (decode w)) := by rw [h]
    _ = decode w' := decode_and_not_ignoredBits hop

theorem encode_and_ignoredBits (i : Instr) : encode i &&& ignoredBits i = 0#18 := by
  cases i with
  | result => exact Laws.IgnoredZero.result
  | update b => exact Laws.IgnoredZero.update b
  | reset => exact Laws.IgnoredZero.reset
  | construct p j => exact Laws.IgnoredZero.construct p j

end Sys2Proof

namespace Sys2Proof.Machine

/-- A step sees of a command word only the command it decodes to. -/
theorem step_command_congr {w w' : CommandWord} (h : decode w = decode w') (s : State) (rest : List HostEvent) :
    step (s.withInputs (.command w :: rest)) = step (s.withInputs (.command w' :: rest)) := by
  rw [step_command (State.withInputs_inputs _ s), step_command (State.withInputs_inputs _ s), h,
    State.withInputs_withInputs, State.withInputs_withInputs]

/-- The assembler emits canonical words (R42). -/
theorem assembleWords_of_assemble {text : List Char} {is : List Instr} (h : assemble text = .ok is) :
    assembleWords text = .ok (is.map encode) := by
  rw [assembleWords, h]

/-! ### CRCBUF as a fold of commands (R46) -/

theorem length_crcbuf (bs : List Byte) : (Instr.crcbuf bs).length = bs.length + 2 := by
  simp [Instr.crcbuf]

theorem execAll_append_of_next {is : List Instr} {s t : State} (h : execAll is s = .next t) (js : List Instr) :
    execAll (is ++ js) s = execAll js t := by
  induction is generalizing s with
  | nil =>
    obtain rfl : s = t := Host.Outcome.next.inj h
    rfl
  | cons i is ih =>
    cases hi : exec i s with
    | next u =>
      rw [execAll_cons_of_next hi] at h
      exact (execAll_cons_of_next hi (is ++ js)).trans (ih h)
    | fault e => exact nomatch e
    | refused r =>
      rw [execAll_cons_of_refused hi] at h
      exact nomatch h

/-- The UPDATEs of a message leave its checksum in CRC and touch nothing else (R54). -/
theorem execAll_updates (bs : List Byte) {s : State} (hs : s.valid = true) :
    execAll (updates bs) s = .next (s.writeCrc (crc8 s.poly s.crc bs)) := by
  induction bs generalizing s with
  | nil => rfl
  | cons b bs ih =>
    rw [updates_cons, execAll_cons_of_next (exec_update_of_valid b hs)]
    exact ih hs

/-- RESET, the UPDATEs, RESULT: CRC starts at INIT, and the checksum is what CRC holds when RESULT responds. -/
theorem execAll_crcbuf (bs : List Byte) {s : State} (hs : s.valid = true) :
    execAll (Instr.crcbuf bs) s =
      .next ((s.writeCrc (crc8 s.poly s.init bs)).respond (crc8 s.poly s.init bs)) := by
  have hreset : execAll (.reset :: updates bs) s = execAll (updates bs) (s.writeCrc s.init) :=
    execAll_cons_of_next (exec_reset_of_valid hs) (updates bs)
  have hupdates : execAll (updates bs) (s.writeCrc s.init) = .next (s.writeCrc (crc8 s.poly s.init bs)) :=
    execAll_updates bs hs
  have hresult : exec .result (s.writeCrc (crc8 s.poly s.init bs)) =
      .next ((s.writeCrc (crc8 s.poly s.init bs)).respond (crc8 s.poly s.init bs)) :=
    exec_result_of_valid hs
  calc execAll (Instr.crcbuf bs) s
      = execAll [.result] (s.writeCrc (crc8 s.poly s.init bs)) :=
        execAll_append_of_next (hreset.trans hupdates) [.result]
    _ = .next ((s.writeCrc (crc8 s.poly s.init bs)).respond (crc8 s.poly s.init bs)) :=
        execAll_cons_of_next hresult []

/-! ### The statements -/

/-- Settles O2: the mask keeps `op`, `op` decides the command, and a canonical word is the number of its fields. -/
theorem decodingFollowsMatchAndMask : Obligations.DecodingFollowsMatchAndMask := by
  unfold Obligations.DecodingFollowsMatchAndMask
  refine ⟨fun w => ⟨fun h => ?result, fun h => ?update, fun h => ?reset, fun h => ?construct, ?rows⟩,
    rfl, fun b => ?updateNumber, rfl, fun p i => ?constructNumber⟩
  case result => exact decode_of_opField_result ((and_mask_eq_iff w 0b00#2).1 h)
  case update => exact decode_of_opField_update ((and_mask_eq_iff w 0b01#2).1 h)
  case reset => exact decode_of_opField_reset ((and_mask_eq_iff w 0b10#2).1 h)
  case construct => exact decode_of_opField_construct ((and_mask_eq_iff w 0b11#2).1 h)
  case rows =>
    exact (opField_cases w).imp (and_mask_eq_iff w _).2
      (Or.imp (and_mask_eq_iff w _).2 (Or.imp (and_mask_eq_iff w _).2 (and_mask_eq_iff w _).2))
  case updateNumber => exact toNat_append_fields 0b01#2 b 0#8
  case constructNumber => exact toNat_append_fields 0b11#2 p i

/-- Settles O4: two such words decode to one command, and a step sees only the command. -/
theorem ignoredBitsChangeNothing : Obligations.IgnoredBitsChangeNothing := by
  unfold Obligations.IgnoredBitsChangeNothing
  refine ⟨fun w w' h => ?same, ⟨rfl, rfl, fun _ => rfl, fun _ _ => rfl⟩, encode_and_ignoredBits,
    fun _ _ => assembleWords_of_assemble⟩
  have hdecode : decode w = decode w' := decode_eq_of_and_not_ignoredBits h
  exact ⟨hdecode, step_command_congr hdecode⟩

/-- Settles O49: the run is the fold over the n + 2 commands, and the assembler is evaluated on the two texts. -/
theorem crcbufComputesOneChecksum : Obligations.CrcbufComputesOneChecksum := by
  unfold Obligations.CrcbufComputesOneChecksum
  refine ⟨fun bs => ⟨rfl, length_crcbuf bs⟩, fun s bs hs => ?run, rfl, rfl⟩
  calc run (bs.length + 2) (s.feed (Instr.crcbuf bs))
      = run (Instr.crcbuf bs).length (s.feed (Instr.crcbuf bs)) := by rw [length_crcbuf]
    _ = execAll (Instr.crcbuf bs) (s.withInputs []) := run_feed _ s
    _ = _ := execAll_crcbuf bs (s := s.withInputs []) hs

/-- Settles O1: the fields bit by bit, the word as the number of its fields, then one clause per value of `op`. -/
theorem fieldsOfTheCommandWord : Obligations.FieldsOfTheCommandWord := by
  unfold Obligations.FieldsOfTheCommandWord
  intro w
  refine ⟨fun j hj => ?bitsA, fun j hj => ?bitsB, fun j hj => ?bitsOp, ?number, decode_of_opField_result,
    decode_of_opField_update, decode_of_opField_reset, decode_of_opField_construct⟩
  case bitsA => simp [operandA, hj]
  case bitsB => simp [operandB, hj]
  case bitsOp => simp [opField, hj]
  case number =>
    calc w.toNat
        = (opField w ++ operandA w ++ operandB w).toNat := congrArg BitVec.toNat (eq_append_fields w)
      _ = _ := toNat_append_fields _ _ _

end Sys2Proof.Machine
end

section
/-! Proofs about the lifecycle commands (40_lifecycle.md): the refusal every command but CONSTRUCT meets while VALID
is 0, the number of CONSTRUCT's word, and the last write to CRC being the one that counts. -/

namespace Sys2Proof

/-- The word of CONSTRUCT as a number (R48). -/
theorem toNat_encode_construct (p i : Byte) :
    (encode (.construct p i)).toNat = 0x30000 + p.toNat * 256 + i.toNat :=
  toNat_append_fields 0b11#2 p i

end Sys2Proof

namespace Sys2Proof.Machine

@[simp] theorem State.writeCrc_writeCrc (v w : Byte) (s : State) : (s.writeCrc v).writeCrc w = s.writeCrc w := rfl

/-- While VALID is 0 every command but CONSTRUCT stops at its first guarded read (R68). -/
theorem exec_of_not_valid {i : Instr} (hi : i.isConstruct = false) {s : State} (h : s.valid = false) :
    exec i s = .refused .notConstructed := by
  cases i with
  | result => rw [exec, execResult, readReg_of_not_valid h]
  | update b => rw [exec, execUpdate, readReg_of_not_valid h]
  | reset => rw [exec, execReset, readReg_of_not_valid h]
  | construct p j => cases hi

/-- A RESULT straight after CONSTRUCT responds with the initial value (R48, corner case (e)). -/
theorem exec_result_construct (p i : Byte) (s : State) :
    exec .result (s.construct p i) = .next ((s.construct p i).respond i) :=
  exec_result_of_valid (State.construct_valid p i s)

/-- RESET is idempotent: it reads INIT, which its own write to CRC leaves as it was (R49, corner case (a)). -/
theorem exec_reset_writeCrc_init {s : State} (h : s.valid = true) :
    exec .reset (s.writeCrc s.init) = .next (s.writeCrc s.init) := by
  have hvalid : (s.writeCrc s.init).valid = true := by rw [State.writeCrc_valid, h]
  rw [exec_reset_of_valid hvalid, State.writeCrc_init, State.writeCrc_writeCrc]

/-! ### The statements -/

/-- Settles O21: the four writes of CONSTRUCT, its word, and the RESULT that reads the CRC it has just written. -/
theorem constructBindsAnEngine : Obligations.ConstructBindsAnEngine := by
  unfold Obligations.ConstructBindsAnEngine
  exact fun p i s => ⟨exec_construct p i s, toNat_encode_construct p i, exec_result_construct p i s⟩

/-- Settles O22: RESET with an engine, RESET once more, RESET without an engine, and its word. -/
theorem resetReseedsCrc : Obligations.ResetReseedsCrc := by
  unfold Obligations.ResetReseedsCrc
  exact fun s => ⟨exec_reset_of_valid, exec_reset_writeCrc_init, exec_of_not_valid rfl, rfl⟩

end Sys2Proof.Machine
end

section
/-! Proofs about the engine and UPDATE (41_update.md): the step as one XOR into the shifted register, the byte fold as
eight iterations of the step, and what eight steps do for the polynomials 0x00 and 0x01. -/

namespace Sys2Proof

/-- The word of UPDATE as a number (R55). -/
theorem toNat_encode_update (b : Byte) : (encode (.update b)).toNat = 0x10000 + b.toNat * 256 :=
  toNat_append_fields 0b01#2 b 0#8

end Sys2Proof

namespace Sys2Proof.Machine

/-! ### The one-bit step (R50) -/

theorem toNat_shl1 (c : Byte) : (shl1 c).toNat = 2 * c.toNat % 256 := by
  rw [shl1, BitVec.toNat_shiftLeft, Nat.shiftLeft_eq, Nat.mul_comm]

theorem getLsbD_shl1_zero (c : Byte) : (shl1 c).getLsbD 0 = false := by simp [shl1]

theorem getLsbD_shl1_succ (c : Byte) {j : Nat} (hj : j + 1 < 8) : (shl1 c).getLsbD (j + 1) = c.getLsbD j := by
  have hj' : j < 8 := by omega
  simp [shl1, hj, hj']

/-- The feedback bit says whether the accumulator, as a number, is in the upper half. -/
theorem feedback_iff (c : Byte) : feedback c = true ↔ c.toNat ≥ 128 := by
  change c.msb = true ↔ _
  rw [BitVec.msb_eq_true_iff_two_mul_ge]
  omega

/-- Both branches of the step at once: the register is shifted, then what the feedback bit lets through is XORed in. -/
theorem lfsrStep_eq_xor (c p : Byte) : lfsrStep c p = shl1 c ^^^ (if feedback c = true then p else 0) := by
  cases hf : feedback c with
  | true => exact lfsrStep_of_feedback hf
  | false => simpa using lfsrStep_of_not_feedback hf

theorem toNat_lfsrStep (c p : Byte) :
    (lfsrStep c p).toNat = (2 * c.toNat % 256) ^^^ (if c.toNat ≥ 128 then p.toNat else 0) := by
  simp only [lfsrStep_eq_xor, BitVec.toNat_xor, toNat_shl1, feedback_iff, apply_ite BitVec.toNat]
  rfl

theorem lfsrStep_zero_left (p : Byte) : lfsrStep 0 p = 0 := rfl

theorem lfsrStep_zero_right (c : Byte) : lfsrStep c 0 = shl1 c := by simp [lfsrStep_eq_xor]

/-- With the polynomial 0x01 the bit that leaves at the top comes in at the bottom. -/
theorem getLsbD_lfsrStep_one (c : Byte) {j : Nat} (hj : j < 8) :
    (lfsrStep c 1).getLsbD j = c.getLsbD ((j + 7) % 8) := by
  rw [lfsrStep_eq_xor, BitVec.getLsbD_xor]
  cases j with
  | zero =>
    have htop : c.getLsbD ((0 + 7) % 8) = feedback c := rfl
    rw [htop, getLsbD_shl1_zero]
    cases feedback c <;> rfl
  | succ j =>
    have hmod : (j + 1 + 7) % 8 = j := by omega
    rw [getLsbD_shl1_succ c hj, hmod]
    split <;> simp

/-! ### Any number of steps -/

theorem shl1_iterate (n : Nat) (c : Byte) : shl1^[n] c = c <<< n := by
  induction n with
  | zero => simp
  | succ n ih => rw [Function.iterate_succ_apply', ih, shl1, BitVec.shiftLeft_add]

/-- With the polynomial 0x01 each step rotates by one place. -/
theorem getLsbD_lfsrStep_one_iterate (n : Nat) (c : Byte) {j : Nat} (hj : j < 8) :
    ((fun x => lfsrStep x 1)^[n] c).getLsbD j = c.getLsbD ((j + 7 * n) % 8) := by
  induction n generalizing j with
  | zero => simp [Nat.mod_eq_of_lt hj]
  | succ n ih =>
    have hback : ((j + 7) % 8 + 7 * n) % 8 = (j + 7 * (n + 1)) % 8 := by omega
    rw [Function.iterate_succ_apply', getLsbD_lfsrStep_one _ hj, ih (Nat.mod_lt _ (by decide)), hback]

/-! ### The byte fold (R51) -/

/-- The eight steps of R51, written one by one, are eight iterations. -/
theorem update_eq_iterate (c p b : Byte) : update c p b = (fun x => lfsrStep x p)^[8] (c ^^^ b) := rfl

/-- A byte equal to the accumulator empties it, and the step keeps it empty (R55, corner case (b)). -/
theorem update_self (c p : Byte) : update c p c = 0 := by
  rw [update_eq_iterate, BitVec.xor_self]
  exact Function.iterate_fixed (lfsrStep_zero_left p) 8

/-- Eight plain shifts empty the register (R55, corner case (c)). -/
theorem update_poly_zero (c b : Byte) : update c 0 b = 0 := by
  have hstep : (fun x => lfsrStep x 0) = shl1 := funext lfsrStep_zero_right
  rw [update_eq_iterate, hstep, shl1_iterate]
  exact BitVec.shiftLeft_eq_zero (Nat.le_refl 8)

/-- Eight rotations by one place bring every bit back (R55, corner case (d)). -/
theorem update_poly_one (c b : Byte) : update c 1 b = c ^^^ b := by
  refine BitVec.eq_of_getLsbD_eq fun j hj => ?_
  have hround : (j + 7 * 8) % 8 = j := by omega
  rw [update_eq_iterate, getLsbD_lfsrStep_one_iterate 8 _ hj, hround]

/-! ### The statements -/

/-- Settles O12: the fold equations, and the run of the UPDATEs as the fold of `exec` over them. -/
theorem updatesFoldTheMessage : Obligations.UpdatesFoldTheMessage := by
  unfold Obligations.UpdatesFoldTheMessage
  refine ⟨crc8_nil, crc8_cons, fun s bs hs => ?run⟩
  have hlength : (updates bs).length = bs.length := List.length_map _
  calc run bs.length (s.feed (updates bs))
      = run (updates bs).length (s.feed (updates bs)) := by rw [hlength]
    _ = execAll (updates bs) (s.withInputs []) := run_feed _ s
    _ = _ := execAll_updates bs (s := s.withInputs []) hs

/-- Settles O9: the two branches are the rule's, the number form follows from the step as one XOR, and the examples are
evaluated. -/
theorem stepOfTheShiftRegister : Obligations.StepOfTheShiftRegister := by
  unfold Obligations.StepOfTheShiftRegister
  exact ⟨fun c p => ⟨rfl, toNat_shl1 c, toNat_lfsrStep c p⟩, by decide⟩

/-- Settles O23: UPDATE with an engine, UPDATE without one, its word, and the corner cases (a) to (d); (a) is (b) at
zero. -/
theorem updateWritesTheFold : Obligations.UpdateWritesTheFold := by
  unfold Obligations.UpdateWritesTheFold
  exact ⟨fun b s => ⟨exec_update_of_valid b, exec_of_not_valid rfl, toNat_encode_update b⟩,
    update_self 0, update_self, update_poly_zero, update_poly_one⟩

/-- Settles O11: R51 as an iteration, and its two examples evaluated. -/
theorem updateIsOneXorAndEightSteps : Obligations.UpdateIsOneXorAndEightSteps := by
  unfold Obligations.UpdateIsOneXorAndEightSteps
  exact ⟨update_eq_iterate, by decide⟩

end Sys2Proof.Machine
end

section
/-! Proofs about messages and engines (43_properties.md): UPDATEs with a RESULT behind them respond with the checksum
so far, RESET is CONSTRUCT of the parameters held, and a constructed block stays constructed whatever it
executes. -/

namespace Sys2Proof.Machine

/-! ### A message and the RESULT behind it -/

theorem updates_append (bs cs : List Byte) : updates (bs ++ cs) = updates bs ++ updates cs :=
  List.map_append

@[simp] theorem length_updates (bs : List Byte) : (updates bs).length = bs.length := List.length_map _

/-- Feeding a message in two parts: the second goes on from the checksum of the first (R60). -/
theorem crc8_append (p c : Byte) (bs cs : List Byte) : crc8 p c (bs ++ cs) = crc8 p (crc8 p c bs) cs := by
  induction bs generalizing c with
  | nil => rfl
  | cons b bs ih => exact ih (update c p b)

/-- What the UPDATEs of a message and a RESULT behind them make of a state: the checksum in CRC and as the last response
(`execAll_updates_result`). -/
def State.checksummed (bs : List Byte) (s : State) : State :=
  (s.writeCrc (crc8 s.poly s.crc bs)).respond (crc8 s.poly s.crc bs)

@[simp] theorem State.checksummed_valid (bs : List Byte) (s : State) : (s.checksummed bs).valid = s.valid := rfl

/-- Two messages, each with its RESULT: the second checksum is that of the two together (R60). -/
theorem State.checksummed_checksummed (bs cs : List Byte) (s : State) :
    (s.checksummed bs).checksummed cs =
      { s with
        crc := crc8 s.poly s.crc (bs ++ cs)
        undelivered := s.undelivered ++ [crc8 s.poly s.crc bs, crc8 s.poly s.crc (bs ++ cs)] } := by
  simp [State.checksummed, State.writeCrc, State.respond, crc8_append]

theorem execAll_updates_result (bs : List Byte) (is : List Instr) {s : State} (hs : s.valid = true) :
    execAll (updates bs ++ .result :: is) s = execAll is (s.checksummed bs) := by
  have hresult : exec .result (s.writeCrc (crc8 s.poly s.crc bs)) = .next (s.checksummed bs) :=
    exec_result_of_valid hs
  rw [execAll_append_of_next (execAll_updates bs hs), execAll_cons_of_next hresult]

/-- CONSTRUCT completes in every state, so what follows it goes on from the engine it binds (R48). -/
theorem execAll_construct_cons (p i : Byte) (is : List Instr) (s : State) :
    execAll (.construct p i :: is) s = execAll is (s.construct p i) :=
  execAll_cons_of_next (exec_construct p i s) is

/-- `run_feed` where the number of steps is not written as the length of the list. -/
theorem run_feed_of_length_eq {is : List Instr} {k : Nat} (hk : is.length = k) (s : State) :
    run k (s.feed is) = execAll is (s.withInputs []) := by
  rw [← hk, run_feed]

/-! ### RESET and CONSTRUCT of the parameters held (R58) -/

/-- With VALID = 1 the one write of RESET changes as much as the four writes of CONSTRUCT. -/
theorem State.construct_held_parameters {s : State} (hs : s.valid = true) :
    s.construct s.poly s.init = s.writeCrc s.init :=
  State.ext_fields rfl rfl rfl hs.symm rfl rfl rfl rfl

theorem exec_construct_held_parameters {s : State} (hs : s.valid = true) :
    exec (.construct s.poly s.init) s = exec .reset s := by
  rw [exec_construct, State.construct_held_parameters hs, exec_reset_of_valid hs]

/-! ### A constructed block goes on for ever (R66) -/

/-- No command takes VALID away. -/
theorem exec_valid_of_valid {i : Instr} {s t : State} (h : exec i s = .next t) (hs : s.valid = true) :
    t.valid = true := by
  obtain ⟨-, -, rfl⟩ | ⟨b, -, -, rfl⟩ | ⟨-, -, rfl⟩ | ⟨p, j, -, rfl⟩ := exec_cases h
  · exact hs
  · exact hs
  · exact hs
  · exact State.construct_valid p j s

theorem exec_completes_valid (i : Instr) {s : State} (hs : s.valid = true) :
    ∃ t, exec i s = .next t ∧ t.valid = true := by
  obtain ⟨t, ht⟩ := exec_completes_of_valid i hs
  exact ⟨t, ht, exec_valid_of_valid ht hs⟩

/-- Every sequence of commands completes from a constructed block and leaves it constructed. -/
theorem execAll_completes_valid (is : List Instr) {s : State} (hs : s.valid = true) :
    ∃ t, execAll is s = .next t ∧ t.valid = true := by
  induction is generalizing s with
  | nil => exact ⟨s, rfl, hs⟩
  | cons i is ih =>
    obtain ⟨u, hu, huvalid⟩ := exec_completes_valid i hs
    rw [execAll_cons_of_next hu]
    exact ih huvalid

/-! ### The statements -/

/-- Settles O40: after the CONSTRUCT, POLY is p and CRC is i, so the UPDATEs and the RESULT compute `crc8 p i`. -/
theorem checksumDependsOnTheMessageAlone : Obligations.ChecksumDependsOnTheMessageAlone := by
  unfold Obligations.ChecksumDependsOnTheMessageAlone
  intro p i bs s
  calc run (bs.length + 2) (s.feed (.construct p i :: updates bs ++ [.result]))
      = execAll (.construct p i :: (updates bs ++ [.result])) (s.withInputs []) :=
        run_feed_of_length_eq (by simp) s
    _ = execAll (updates bs ++ [.result]) ((s.withInputs []).construct p i) := execAll_construct_cons p i _ _
    _ = _ := execAll_updates_result bs [] (State.construct_valid p i _)

/-- Settles O42: both commands reach one state, so the step that executes either is the same and so is the run. -/
theorem resetIsAsGoodAsConstruct : Obligations.ResetIsAsGoodAsConstruct := by
  unfold Obligations.ResetIsAsGoodAsConstruct
  refine fun s hs => ⟨?reset, exec_construct_held_parameters hs, fun k is => ?later⟩
  case reset => exact (exec_construct_held_parameters hs).symm.trans (exec_construct s.poly s.init s)
  case later =>
    have hstep : step (s.feed (.reset :: is)) = step (s.feed (.construct s.poly s.init :: is)) := by
      rw [step_feed_cons, step_feed_cons]
      exact (exec_construct_held_parameters (s := s.withInputs (sends is)) hs).symm
    rw [run_succ, run_succ, hstep]

/-- Settles O43: the identity of `crc8`, then each stream as its messages, each with the RESULT behind it. -/
theorem pausingChangesNothing : Obligations.PausingChangesNothing := by
  unfold Obligations.PausingChangesNothing
  refine ⟨crc8_append, fun s bs cs hs => ⟨?whole, ?paused⟩⟩
  case whole =>
    calc run (bs.length + cs.length + 1) (s.feed (updates bs ++ updates cs ++ [.result]))
        = execAll (updates bs ++ updates cs ++ [.result]) (s.withInputs []) :=
          run_feed_of_length_eq (by simp [Nat.add_assoc]) s
      _ = execAll (updates (bs ++ cs) ++ [.result]) (s.withInputs []) := by rw [updates_append]
      _ = _ := execAll_updates_result (bs ++ cs) [] (s := s.withInputs []) hs
  case paused =>
    calc run (bs.length + cs.length + 2) (s.feed (updates bs ++ [.result] ++ updates cs ++ [.result]))
        = execAll (updates bs ++ [.result] ++ updates cs ++ [.result]) (s.withInputs []) :=
          run_feed_of_length_eq (by simp; omega) s
      _ = execAll (updates bs ++ .result :: (updates cs ++ [.result])) (s.withInputs []) := by simp
      _ = execAll (updates cs ++ [.result]) ((s.withInputs []).checksummed bs) :=
          execAll_updates_result bs _ (s := s.withInputs []) hs
      _ = .next (((s.withInputs []).checksummed bs).checksummed cs) :=
          execAll_updates_result cs [] (s := (s.withInputs []).checksummed bs) hs
      _ = _ := congrArg _ (State.checksummed_checksummed bs cs (s.withInputs []))

/-- Settles O45: one command from a constructed block, then any sequence of them behind a CONSTRUCT. -/
theorem noTerminalState : Obligations.NoTerminalState := by
  unfold Obligations.NoTerminalState
  refine ⟨fun i s hs => exec_completes_valid i hs, fun p i is s => ?_⟩
  rw [run_feed_of_length_eq (List.length_cons ..), execAll_construct_cons]
  exact execAll_completes_valid is (State.construct_valid p i _)

end Sys2Proof.Machine
end

section
/-! Proofs about refusals (60_exceptions.md): which commands are refused, why a step is refused, and that a run that is
refused stays so. -/

namespace Sys2Proof.Machine

/-! ### Which commands are refused -/

/-- A command completes if the block is constructed or if it is CONSTRUCT itself (R66, R48). -/
theorem exec_completes {i : Instr} {s : State} (h : ¬ (s.valid = false ∧ i.isConstruct = false)) :
    ∃ t, exec i s = .next t := by
  cases hs : s.valid with
  | true => exact exec_completes_of_valid i hs
  | false =>
    cases i with
    | construct p j => exact ⟨_, exec_construct p j s⟩
    | result | update | reset => exact absurd ⟨hs, rfl⟩ h

/-- What a refused command tells: the block is not constructed, and the command would not construct it (R68). -/
theorem not_constructed_of_exec_refused {i : Instr} {s : State} {r : Refusal} (h : exec i s = .refused r) :
    s.valid = false ∧ i.isConstruct = false := by
  by_contra hcompletes
  obtain ⟨t, ht⟩ := exec_completes hcompletes
  exact nomatch ht.symm.trans h

/-- There is one reason to refuse a command (R68). -/
theorem eq_notConstructed_of_exec_refused {i : Instr} {s : State} {r : Refusal} (h : exec i s = .refused r) :
    r = .notConstructed := by
  obtain ⟨hs, hi⟩ := not_constructed_of_exec_refused h
  have hrefused : exec i s = .refused .notConstructed := exec_of_not_valid hi hs
  simpa [hrefused] using h.symm

theorem exec_refused_iff {i : Instr} {s : State} :
    exec i s = .refused .notConstructed ↔ s.valid = false ∧ i.isConstruct = false :=
  ⟨not_constructed_of_exec_refused, fun ⟨hs, hi⟩ => exec_of_not_valid hi hs⟩

/-! ### Refused steps and refused runs -/

/-- A step is refused by the command it executes and by nothing else the host does: an idle step, a hardware reset and
the taking of a response all reach a next state. -/
theorem step_refused_cases {s : State} {r : Refusal} (h : step s = .refused r) :
    ∃ w rest, s.inputs = .command w :: rest ∧ exec (decode w) (s.withInputs rest) = .refused r := by
  rcases hi : s.inputs with _ | ⟨w | c | _, rest⟩
  · exact nomatch (step_idle hi).symm.trans h
  · exact ⟨w, rest, rfl, (step_command hi).symm.trans h⟩
  · exact nomatch (step_hardwareReset hi).symm.trans h
  · exact nomatch (step_takeResponse hi).symm.trans h

theorem eq_notConstructed_of_step_refused {s : State} {r : Refusal} (h : step s = .refused r) :
    r = .notConstructed := by
  obtain ⟨w, rest, -, hexec⟩ := step_refused_cases h
  exact eq_notConstructed_of_exec_refused hexec

/-- A refused run was refused at its first refused step, which ends every longer run too (R68). -/
theorem run_refused {k : Nat} {s : State} {r : Refusal} (h : run k s = .refused r) (m : Nat) :
    r = .notConstructed ∧ run (k + m) s = .refused r := by
  induction k generalizing s with
  | zero => exact nomatch h
  | succ k ih =>
    rw [Nat.succ_add]
    cases hs : step s with
    | next t =>
      rw [run_succ_of_next hs] at h ⊢
      exact ih h
    | fault e => exact nomatch e
    | refused q =>
      rw [run_succ_of_refused hs] at h ⊢
      obtain rfl : q = r := by simpa using h
      exact ⟨eq_notConstructed_of_step_refused hs, rfl⟩

/-! ### The statement -/

/-- Settles O25: which commands are refused and which complete, then runs by induction on the number of steps. -/
theorem refusedExactlyBeforeConstruct : Obligations.RefusedExactlyBeforeConstruct := by
  unfold Obligations.RefusedExactlyBeforeConstruct
  exact ⟨fun i s => ⟨exec_refused_iff, exec_completes⟩, fun k m s r h => run_refused h m⟩

end Sys2Proof.Machine
end

section
/-! Proofs about two messages on one engine (70_reset_and_hazards.md): the second checksum goes on from the first unless
a RESET, or a CONSTRUCT with the same operands, stands between them. -/

namespace Sys2Proof.Machine

/-! ### Beginning again (R58) -/

/-- With VALID = 1, RESET and CONSTRUCT of the parameters held both put INIT in CRC and change nothing else. -/
theorem exec_begin_again {s : State} (hs : s.valid = true) {again : Instr}
    (hagain : again ∈ [Instr.reset, .construct s.poly s.init]) : exec again s = .next (s.writeCrc s.init) := by
  obtain rfl | rfl : again = .reset ∨ again = .construct s.poly s.init := by simpa using hagain
  · exact exec_reset_of_valid hs
  · exact (exec_construct_held_parameters hs).trans (exec_reset_of_valid hs)

/-- Two messages, each with its RESULT, and a write of CRC between them: the second checksum is that of the second
message alone, from the value written. -/
theorem State.checksummed_writeCrc_checksummed (bs cs : List Byte) (v : Byte) (s : State) :
    ((s.checksummed bs).writeCrc v).checksummed cs =
      { s with
        crc := crc8 s.poly v cs
        undelivered := s.undelivered ++ [crc8 s.poly s.crc bs, crc8 s.poly v cs] } := by
  simp [State.checksummed, State.writeCrc, State.respond]

/-! ### Two messages on a constructed block (R80) -/

theorem execAll_two_messages (bs cs : List Byte) {s : State} (hs : s.valid = true) :
    execAll (updates bs ++ .result :: (updates cs ++ [.result])) s =
      .next { s with
        crc := crc8 s.poly s.crc (bs ++ cs)
        undelivered := s.undelivered ++ [crc8 s.poly s.crc bs, crc8 s.poly s.crc (bs ++ cs)] } :=
  calc execAll (updates bs ++ .result :: (updates cs ++ [.result])) s
      = execAll (updates cs ++ [.result]) (s.checksummed bs) := execAll_updates_result bs _ hs
    _ = .next ((s.checksummed bs).checksummed cs) := execAll_updates_result cs [] (s := s.checksummed bs) hs
    _ = _ := congrArg _ (State.checksummed_checksummed bs cs s)

theorem execAll_two_messages_begun_again (bs cs : List Byte) {s : State} (hs : s.valid = true) {again : Instr}
    (hagain : again ∈ [Instr.reset, .construct s.poly s.init]) :
    execAll (updates bs ++ .result :: again :: (updates cs ++ [.result])) s =
      .next { s with
        crc := crc8 s.poly s.init cs
        undelivered := s.undelivered ++ [crc8 s.poly s.crc bs, crc8 s.poly s.init cs] } := by
  have hbegun : exec again (s.checksummed bs) = .next ((s.checksummed bs).writeCrc s.init) :=
    exec_begin_again (s := s.checksummed bs) hs hagain
  calc execAll (updates bs ++ .result :: again :: (updates cs ++ [.result])) s
      = execAll (again :: (updates cs ++ [.result])) (s.checksummed bs) := execAll_updates_result bs _ hs
    _ = execAll (updates cs ++ [.result]) ((s.checksummed bs).writeCrc s.init) := execAll_cons_of_next hbegun _
    _ = .next (((s.checksummed bs).writeCrc s.init).checksummed cs) :=
        execAll_updates_result cs [] (s := (s.checksummed bs).writeCrc s.init) hs
    _ = _ := congrArg _ (State.checksummed_writeCrc_checksummed bs cs s.init s)

/-! ### The statement -/

/-- Settles O48: the CONSTRUCT binds an engine with INIT = CRC = i, and the rest of the stream is two messages on it,
with nothing between them or with a command that begins again. -/
theorem missingResetCoversBothMessages : Obligations.MissingResetCoversBothMessages := by
  unfold Obligations.MissingResetCoversBothMessages
  refine fun p i bs cs s => ⟨?missing, fun again hagain => ?begun⟩
  case missing =>
    calc run (bs.length + cs.length + 3)
          (s.feed (.construct p i :: updates bs ++ .result :: updates cs ++ [.result]))
        = execAll (.construct p i :: updates bs ++ .result :: updates cs ++ [.result]) (s.withInputs []) :=
          run_feed_of_length_eq (by simp; omega) s
      _ = execAll (.construct p i :: (updates bs ++ .result :: (updates cs ++ [.result]))) (s.withInputs []) := by
          simp
      _ = execAll (updates bs ++ .result :: (updates cs ++ [.result])) ((s.withInputs []).construct p i) :=
          execAll_construct_cons p i _ _
      _ = _ := execAll_two_messages bs cs (State.construct_valid p i _)
  case begun =>
    calc run (bs.length + cs.length + 4)
          (s.feed (.construct p i :: updates bs ++ .result :: again :: updates cs ++ [.result]))
        = execAll (.construct p i :: updates bs ++ .result :: again :: updates cs ++ [.result]) (s.withInputs []) :=
          run_feed_of_length_eq (by simp; omega) s
      _ = execAll (.construct p i :: (updates bs ++ .result :: again :: (updates cs ++ [.result])))
            (s.withInputs []) := by simp
      _ = execAll (updates bs ++ .result :: again :: (updates cs ++ [.result])) ((s.withInputs []).construct p i) :=
          execAll_construct_cons p i _ _
      _ = _ := execAll_two_messages_begun_again bs cs (State.construct_valid p i _) hagain

end Sys2Proof.Machine
end

section
/-! Proofs about the canonical words (30_encoding.md section 4): encoding a decoded word clears its ignored bits, so it
gives the word back exactly when they are 0. -/

namespace Sys2Proof

/-! ### Clearing the ignored bits field by field -/

theorem operandA_and (w m : CommandWord) : operandA (w &&& m) = operandA w &&& operandA m := BitVec.extractLsb'_and

theorem operandB_and (w m : CommandWord) : operandB (w &&& m) = operandB w &&& operandB m := BitVec.extractLsb'_and

/-- No operand of RESULT or RESET is left (R42). -/
theorem and_not_ignoredBits_eq_of_no_operand {i : Instr} (hi : ignoredBits i = 0x0FFFF#18) (w : CommandWord) :
    operandA (w &&& ~~~ ignoredBits i) = 0 ∧ operandB (w &&& ~~~ ignoredBits i) = 0 := by
  have hmaskA : operandA (~~~ 0x0FFFF#18) = 0 := by decide
  have hmaskB : operandB (~~~ 0x0FFFF#18) = 0 := by decide
  rw [hi, operandA_and, operandB_and, hmaskA, hmaskB]
  exact ⟨BitVec.and_zero, BitVec.and_zero⟩

/-- The second operand of UPDATE is not left (R42). -/
theorem operandB_and_not_ignoredBits_update (b : Byte) (w : CommandWord) :
    operandB (w &&& ~~~ ignoredBits (.update b)) = 0 := by
  have hmask : operandB (~~~ 0x000FF#18) = 0 := by decide
  rw [ignoredBits, operandB_and, hmask]
  exact BitVec.and_zero

/-- The operands of a canonical word are those its command has, and 0 where it has none (R41, R42). -/
theorem operands_encode_decode (w : CommandWord) :
    operandA (encode (decode w)) = operandA (w &&& ~~~ ignoredBits (decode w)) ∧
      operandB (encode (decode w)) = operandB (w &&& ~~~ ignoredBits (decode w)) := by
  obtain h | h | h | h := opField_cases w
  · obtain ⟨hA, hB⟩ := and_not_ignoredBits_eq_of_no_operand (i := .result) rfl w
    rw [decode_of_opField_result h, hA, hB]
    exact ⟨operandA_append _ 0 0, operandB_append _ 0 0⟩
  · rw [decode_of_opField_update h, operandA_and_not_ignoredBits_update, operandB_and_not_ignoredBits_update]
    exact ⟨operandA_encode_update _, operandB_append _ _ 0⟩
  · obtain ⟨hA, hB⟩ := and_not_ignoredBits_eq_of_no_operand (i := .reset) rfl w
    rw [decode_of_opField_reset h, hA, hB]
    exact ⟨operandA_append _ 0 0, operandB_append _ 0 0⟩
  · rw [decode_of_opField_construct h, ignoredBits, BitVec.not_zero, BitVec.and_allOnes]
    exact ⟨operandA_encode_construct _ _, operandB_encode_construct _ _⟩

theorem and_not_eq_self_of_and_eq_zero {w m : CommandWord} (h : w &&& m = 0#18) : w &&& ~~~ m = w := by
  refine BitVec.eq_of_getLsbD_eq fun k hk => ?_
  have hbit : (w.getLsbD k && m.getLsbD k) = false := by
    rw [← BitVec.getLsbD_and, h, BitVec.getLsbD_zero]
  rw [BitVec.getLsbD_and, BitVec.getLsbD_not]
  cases hm : m.getLsbD k with
  | false => simp [hk]
  | true =>
    have hw : w.getLsbD k = false := by simpa [hm] using hbit
    simp [hw]

/-- Decoding and encoding again is clearing the ignored bits. -/
theorem encode_decode (w : CommandWord) : encode (decode w) = w &&& ~~~ ignoredBits (decode w) := by
  obtain ⟨hA, hB⟩ := operands_encode_decode w
  refine ext_of_fields ?_ hA hB
  rw [opField_encode, opcode_decode, opField_and_not_ignoredBits]

theorem encode_decode_eq_self_iff (w : CommandWord) :
    encode (decode w) = w ↔ w &&& ignoredBits (decode w) = 0#18 := by
  constructor
  · intro h
    calc w &&& ignoredBits (decode w)
        = encode (decode w) &&& ignoredBits (decode w) := by rw [h]
      _ = 0#18 := encode_and_ignoredBits (decode w)
  · intro h
    exact (encode_decode w).trans (and_not_eq_self_of_and_eq_zero h)

/-! ### Numbers offered as words -/

theorem decodeNat_of_lt {w : Nat} (h : w < 262144) : decodeNat w = .ok (decode (BitVec.ofNat 18 w)) :=
  if_pos (decide_eq_true h)

theorem decodeNat_of_le {w : Nat} (h : 262144 ≤ w) : decodeNat w = .error .notEighteenBits :=
  if_neg (by simpa [wellFormedWord] using h)

end Sys2Proof

namespace Sys2Proof.Machine

/-! ### The statements -/

/-- Settles O3: the round trip of a command, then that encoding a decoded word clears its ignored bits. -/
theorem decodeInvertsEncode : Obligations.DecodeInvertsEncode := by
  unfold Obligations.DecodeInvertsEncode
  exact ⟨decode_encode, encode_decode_eq_self_iff⟩

/-- Settles O6: `wellFormedWord` draws the line at 2 ^ 18. -/
theorem everyWordIsACommand : Obligations.EveryWordIsACommand := by
  unfold Obligations.EveryWordIsACommand
  exact fun w => ⟨decodeNat_of_lt, decodeNat_of_le⟩

/-- Settles O5: each of the ten words is evaluated. -/
theorem decodesTheWrittenWords : Obligations.DecodesTheWrittenWords := by
  unfold Obligations.DecodesTheWrittenWords
  decide

end Sys2Proof.Machine
end

section
/-! Proofs about the responses and the hardware reset (20_memory.md, 60_exceptions.md, 70_reset_and_hazards.md): only
RESULT responds, a step executes the command it decodes, and a response waits only while an engine is constructed. -/

namespace Sys2Proof.Machine

/-! ### What commands do to the channels (R27, R33) -/

theorem exec_inputs {i : Instr} {s t : State} (h : exec i s = .next t) : t.inputs = s.inputs := by
  obtain ⟨-, -, rfl⟩ | ⟨b, -, -, rfl⟩ | ⟨-, -, rfl⟩ | ⟨p, j, -, rfl⟩ := exec_cases h
  · rfl
  · rfl
  · rfl
  · rfl

/-- No command delivers (log 3). -/
theorem exec_delivered {i : Instr} {s t : State} (h : exec i s = .next t) : t.delivered = s.delivered := by
  obtain ⟨-, -, rfl⟩ | ⟨b, -, -, rfl⟩ | ⟨-, -, rfl⟩ | ⟨p, j, -, rfl⟩ := exec_cases h
  · rfl
  · rfl
  · rfl
  · rfl

/-- RESULT responds with CRC, every other command with nothing (R27). -/
theorem exec_undelivered {i : Instr} {s t : State} (h : exec i s = .next t) :
    t.undelivered = s.undelivered ++ if i = .result then [s.crc] else [] := by
  obtain ⟨rfl, -, rfl⟩ | ⟨b, rfl, -, rfl⟩ | ⟨rfl, -, rfl⟩ | ⟨p, j, rfl, rfl⟩ := exec_cases h
  · simp
  · simp
  · simp
  · simp

theorem exec_undelivered_of_ne_result {i : Instr} {s t : State} (h : exec i s = .next t) (hi : i ≠ .result) :
    t.undelivered = s.undelivered := by
  rw [exec_undelivered h, if_neg hi, List.append_nil]

/-- The oldest waiting response is delivered first. -/
theorem State.takeResponse_of_cons {s : State} {v : Byte} {vs : List Byte} (h : s.undelivered = v :: vs) :
    s.takeResponse = { s with undelivered := vs, delivered := s.delivered ++ [v] } := by
  rw [State.takeResponse, h]

/-! ### Commands given twice (R33) -/

theorem execAll_singleton_of_next {i : Instr} {s t : State} (h : exec i s = .next t) : execAll [i] s = .next t :=
  execAll_cons_of_next h []

theorem execAll_pair_of_next {i j : Instr} {s t u : State} (hi : exec i s = .next t) (hj : exec j t = .next u) :
    execAll [i, j] s = .next u :=
  (execAll_cons_of_next hi [j]).trans (execAll_singleton_of_next hj)

/-- A command that does nothing more in the state it leads to does the same twice as once. -/
theorem execAll_twice_of_fixed {i : Instr} {s t : State} (hfirst : exec i s = .next t) (hagain : exec i t = .next t) :
    execAll [i, i] s = execAll [i] s :=
  (execAll_pair_of_next hfirst hagain).trans (execAll_singleton_of_next hfirst).symm

theorem execAll_result_result {s : State} (hs : s.valid = true) :
    execAll [.result, .result] s = .next ((s.respond s.crc).respond s.crc) :=
  execAll_pair_of_next (exec_result_of_valid hs) (exec_result_of_valid (s := s.respond s.crc) hs)

theorem execAll_reset_reset {s : State} (hs : s.valid = true) : execAll [.reset, .reset] s = execAll [.reset] s :=
  execAll_twice_of_fixed (exec_reset_of_valid hs) (exec_reset_writeCrc_init hs)

theorem execAll_construct_construct (p i : Byte) (s : State) :
    execAll [.construct p i, .construct p i] s = execAll [.construct p i] s :=
  execAll_twice_of_fixed (exec_construct p i s) (exec_construct p i (s.construct p i))

/-- With the polynomial 0x07, the byte 0x01 leaves 0x07 in CRC the first time and another value the second. -/
theorem execAll_update_update_ne {s : State} (hs : s.valid = true) (hpoly : s.poly = 0x07) (hcrc : s.crc = 0x00) :
    execAll [.update 0x01, .update 0x01] s ≠ execAll [.update 0x01] s := by
  have honce := execAll_updates [0x01] hs
  have htwice := execAll_updates [0x01, 0x01] hs
  simp only [updates_cons, updates_nil, hpoly, hcrc] at honce htwice
  have hdiffer : update 0x07 0x07 0x01 ≠ 0x07 := by decide
  have hfirst : update 0x00 0x07 0x01 = 0x07 := by decide
  rw [honce, htwice]
  intro h
  have hcrc : update (update 0x00 0x07 0x01) 0x07 0x01 = update 0x00 0x07 0x01 := by
    simpa using congrArg State.crc (Host.Outcome.next.inj h)
  rw [hfirst] at hcrc
  exact hdiffer hcrc

/-! ### The hardware reset -/

theorem step_withInputs_hardwareReset (s : State) (c : Option CommandWord) (rest : List HostEvent) :
    step (s.withInputs (.hardwareReset c :: rest)) = .next (s.withInputs rest).hwReset :=
  step_hardwareReset (s := s.withInputs (.hardwareReset c :: rest)) rfl

/-! ### The invariant of the waiting responses -/

/-- A command that has completed leaves a constructed block: it found one, or it is CONSTRUCT. -/
theorem exec_valid {i : Instr} {s t : State} (h : exec i s = .next t) : t.valid = true := by
  obtain ⟨-, hs, rfl⟩ | ⟨b, -, hs, rfl⟩ | ⟨-, hs, rfl⟩ | ⟨p, j, -, rfl⟩ := exec_cases h
  · exact hs
  · exact hs
  · exact hs
  · exact State.construct_valid p j s

/-- After a command there is an engine, so any response may wait. -/
theorem exec_waitingNeedsEngine {i : Instr} {s t : State} (h : exec i s = .next t) : t.waitingNeedsEngine :=
  fun ht => nomatch (exec_valid h).symm.trans ht

theorem step_waitingNeedsEngine {s t : State} (h : step s = .next t) (hs : s.waitingNeedsEngine) :
    t.waitingNeedsEngine := by
  obtain ⟨-, rfl⟩ | ⟨w, rest, -, hexec⟩ | ⟨c, rest, -, rfl⟩ | ⟨rest, -, rfl⟩ := step_cases h
  · exact hs
  · exact exec_waitingNeedsEngine hexec
  · exact fun _ => State.hwReset_undelivered _
  · intro hvalid
    have hempty : s.undelivered = [] := hs (by simpa using hvalid)
    simp [hempty]

/-! ### The statements -/

/-- Settles O37: one case per event of the host. -/
theorem waitingResponsesNeedAnEngine : Obligations.WaitingResponsesNeedAnEngine := by
  unfold Obligations.WaitingResponsesNeedAnEngine
  exact fun s t hs h => step_waitingNeedsEngine h hs

/-- Settles O38. -/
theorem nothingWaitsAfterReset : Obligations.NothingWaitsAfterReset := by
  unfold Obligations.NothingWaitsAfterReset
  exact fun _ => State.reset_undelivered

/-- Settles O24: RESULT with an engine, RESULT without one, and its word. -/
theorem resultRespondsWithCrc : Obligations.ResultRespondsWithCrc := by
  unfold Obligations.ResultRespondsWithCrc
  exact fun s => ⟨exec_result_of_valid, exec_of_not_valid rfl, rfl⟩

/-- Settles O28: what a completed command has added to the channel, then the taking of the oldest response. -/
theorem onlyResultResponds : Obligations.OnlyResultResponds := by
  unfold Obligations.OnlyResultResponds
  refine ⟨fun i s t h => ⟨exec_delivered h, ?result, exec_undelivered_of_ne_result h⟩,
    fun s v vs rest hinputs hwaiting => ?taken⟩
  case result =>
    rintro rfl
    exact exec_undelivered h
  case taken =>
    rw [step_takeResponse hinputs]
    exact congrArg _ (State.takeResponse_of_cons (s := s.withInputs rest) hwaiting)

/-- Settles O32: each command given twice, then the channels no command touches. -/
theorem idempotencyOfCommands : Obligations.IdempotencyOfCommands := by
  unfold Obligations.IdempotencyOfCommands
  refine ⟨fun s hs => ⟨_, execAll_result_result hs, ⟨rfl, rfl, rfl, rfl⟩, ?twice⟩, fun s => execAll_reset_reset,
    execAll_construct_construct, ?update,
    fun i s t h => ⟨exec_inputs h, exec_delivered h⟩⟩
  case twice => simp
  case update =>
    have hvalid : (State.reset.construct 0x07 0x00).valid = true := rfl
    exact ⟨_, _, hvalid, execAll_update_update_ne hvalid rfl rfl⟩

/-- Settles O33: the step of a command word, then the round trip of a canonical one. -/
theorem stepRunsTheDecodedCommand : Obligations.StepRunsTheDecodedCommand := by
  unfold Obligations.StepRunsTheDecodedCommand
  refine ⟨fun s w rest h => step_command h, fun s i rest h => ?canonical⟩
  case canonical =>
    rw [step_command h, decode_encode]
    rfl

/-- Settles O34, by induction on the number of steps: an idle step leads back to the state. -/
theorem idleBlockKeepsItsState : Obligations.IdleBlockKeepsItsState := by
  unfold Obligations.IdleBlockKeepsItsState
  intro k s h
  induction k with
  | zero => exact run_zero s
  | succ k ih => exact (run_succ_of_next (step_idle h)).trans ih

/-- Settles O35: the state after is `hwReset`, which does not depend on the coinciding command. -/
theorem hardwareResetFromAnyState : Obligations.HardwareResetFromAnyState := by
  unfold Obligations.HardwareResetFromAnyState
  intro s c rest h
  exact ⟨_, step_hardwareReset h, rfl, rfl, rfl, rfl, fun i hi => exec_of_not_valid hi rfl,
    fun c' => step_withInputs_hardwareReset s c' rest⟩

/-- Settles O36: the fields of the reset state, then what each command does in it. -/
theorem resetStateRefusesAllButConstruct : Obligations.ResetStateRefusesAllButConstruct := by
  unfold Obligations.ResetStateRefusesAllButConstruct
  exact ⟨rfl, rfl, rfl, fun i hi => exec_of_not_valid hi rfl,
    fun p i => ⟨_, exec_construct p i State.reset, rfl, rfl, rfl, rfl⟩⟩

end Sys2Proof.Machine
end

section
/-! Proofs about commands on two blocks (42_result.md, 43_properties.md, 60_exceptions.md section 5): a command sees of
a block only its engine, so two blocks with the same engine go on alike. -/

namespace Sys2Proof.Machine

/-! ### One command on two blocks with the same engine -/

theorem sameEngine.refl (s : State) : sameEngine s s := ⟨rfl, rfl, rfl, rfl⟩

/-- A command that completes completes on every block with the same engine, and the engines stay the same. -/
theorem exec_of_sameEngine {i : Instr} {s s' t : State} (hsame : sameEngine s s') (h : exec i s = .next t) :
    ∃ t', exec i s' = .next t' ∧ sameEngine t t' := by
  obtain ⟨hpoly, hinit, hcrc, hvalid⟩ := hsame
  obtain ⟨rfl, hs, rfl⟩ | ⟨b, rfl, hs, rfl⟩ | ⟨rfl, hs, rfl⟩ | ⟨p, j, rfl, rfl⟩ := exec_cases h
  · exact ⟨_, exec_result_of_valid (hvalid ▸ hs), hpoly, hinit, hcrc, hvalid⟩
  · have hfold : update s.crc s.poly b = update s'.crc s'.poly b := by rw [hcrc, hpoly]
    exact ⟨_, exec_update_of_valid b (hvalid ▸ hs), hpoly, hinit, hfold, hvalid⟩
  · exact ⟨_, exec_reset_of_valid (hvalid ▸ hs), hpoly, hinit, hinit, hvalid⟩
  · exact ⟨_, exec_construct p j s', rfl, rfl, rfl, rfl⟩

/-- What a completed command adds to the observation (R86): the response of a RESULT. -/
theorem exec_observation {i : Instr} {s t : State} (h : exec i s = .next t) :
    t.observation = s.observation ++ if i = .result then [s.crc] else [] := by
  rw [State.observation, exec_delivered h, exec_undelivered h, State.observation, List.append_assoc]

/-! ### A list of commands on two blocks with the same engine -/

/-- The same commands lead to the same engine and add the same responses. -/
theorem execAll_of_sameEngine (is : List Instr) {s s' : State} (hsame : sameEngine s s') (hs : s.valid = true) :
    ∃ t t', execAll is s = .next t ∧ execAll is s' = .next t' ∧ sameEngine t t' ∧
      ∃ rs, t.undelivered = s.undelivered ++ rs ∧ t'.undelivered = s'.undelivered ++ rs := by
  induction is generalizing s s' with
  | nil => exact ⟨s, s', rfl, rfl, hsame, [], by simp⟩
  | cons i is ih =>
    obtain ⟨u, hu, huvalid⟩ := exec_completes_valid i hs
    obtain ⟨u', hu', husame⟩ := exec_of_sameEngine hsame hu
    obtain ⟨t, t', ht, ht', htsame, rs, hrs, hrs'⟩ := ih husame huvalid
    obtain ⟨-, -, hcrc, -⟩ := hsame
    refine ⟨t, t', (execAll_cons_of_next hu is).trans ht, (execAll_cons_of_next hu' is).trans ht', htsame,
      (if i = .result then [s.crc] else []) ++ rs, ?_, ?_⟩
    · rw [hrs, exec_undelivered hu, List.append_assoc]
    · rw [hrs', exec_undelivered hu', List.append_assoc, hcrc]

/-- The RESULT commands left out, the rest leads to the same engine and responds with nothing. -/
theorem execAll_without_results (is : List Instr) {s s' : State} (hsame : sameEngine s s') (hs : s.valid = true) :
    ∃ t t', execAll is s = .next t ∧ execAll (is.filter (· ≠ .result)) s' = .next t' ∧ sameEngine t t' ∧
      t'.undelivered = s'.undelivered := by
  induction is generalizing s s' with
  | nil => exact ⟨s, s', rfl, rfl, hsame, rfl⟩
  | cons i is ih =>
    by_cases hi : i = .result
    · subst hi
      obtain ⟨t, t', ht, hrest⟩ := ih (s := s.respond s.crc) hsame hs
      rw [List.filter_cons_of_neg (by simp)]
      exact ⟨t, t', (execAll_cons_of_next (exec_result_of_valid hs) is).trans ht, hrest⟩
    · obtain ⟨u, hu, huvalid⟩ := exec_completes_valid i hs
      obtain ⟨u', hu', husame⟩ := exec_of_sameEngine hsame hu
      obtain ⟨t, t', ht, ht', htsame, hwaiting⟩ := ih husame huvalid
      rw [List.filter_cons_of_pos (by simpa using hi)]
      exact ⟨t, t', (execAll_cons_of_next hu is).trans ht, (execAll_cons_of_next hu' _).trans ht', htsame,
        hwaiting.trans (exec_undelivered_of_ne_result hu' hi)⟩

/-! ### The statements -/

/-- Settles O41: after the CONSTRUCT both blocks have the engine it binds. -/
theorem twoBlocksAgreeAfterConstruct : Obligations.TwoBlocksAgreeAfterConstruct := by
  unfold Obligations.TwoBlocksAgreeAfterConstruct
  intro p i is s s'
  rw [run_feed_of_length_eq (List.length_cons ..), run_feed_of_length_eq (List.length_cons ..),
    execAll_construct_cons, execAll_construct_cons]
  exact execAll_of_sameEngine is ⟨rfl, rfl, rfl, rfl⟩ (State.construct_valid p i _)

/-- Settles O44: both lists start on the one state. -/
theorem resultsMayBeInsertedAnywhere : Obligations.ResultsMayBeInsertedAnywhere := by
  unfold Obligations.ResultsMayBeInsertedAnywhere
  exact fun s is hs => execAll_without_results is (sameEngine.refl s) hs

end Sys2Proof.Machine
end

section
/-! Proofs about runs over any events of the host (10_state.md, 60_exceptions.md, 70_reset_and_hazards.md): what a run
keeps between two CONSTRUCTs, which streams are carried out, and what no run lets the host observe. -/

namespace Sys2Proof.Machine

/-! ### No exception (R67) -/

theorem run_completes_or_refused (k : Nat) (s : State) :
    (∃ t, run k s = .next t) ∨ run k s = .refused .notConstructed := by
  cases h : run k s with
  | next t => exact .inl ⟨t, rfl⟩
  | fault e => exact nomatch e
  | refused r =>
    obtain ⟨rfl, -⟩ := run_refused h 0
    exact .inr rfl

/-! ### From one CONSTRUCT to the next (R21) -/

/-- The parameters of the engine that `s` has, kept by `t`. -/
def keepsParameters (s t : State) : Prop := t.poly = s.poly ∧ t.init = s.init ∧ t.valid = true

theorem keepsParameters.trans {s t u : State} (hst : keepsParameters s t) (htu : keepsParameters t u) :
    keepsParameters s u := by
  obtain ⟨hpoly, hinit, -⟩ := hst
  obtain ⟨hpoly', hinit', hvalid⟩ := htu
  exact ⟨hpoly'.trans hpoly, hinit'.trans hinit, hvalid⟩

theorem exec_keepsParameters {i : Instr} {s t : State} (h : exec i s = .next t) (hi : i.isConstruct = false)
    (hs : s.valid = true) : keepsParameters s t :=
  have hkeeps (r : Reg) (hr : r ≠ .crc) : t.reg r = s.reg r :=
    exec_keeps_unwritten h (not_mem_writesOf_of_ne_crc hi hr)
  ⟨hkeeps .poly (by decide), hkeeps .init (by decide), exec_valid_of_valid h hs⟩

/-- While no CONSTRUCT and no hardware reset is to come, a step completes and keeps the parameters (R15). -/
theorem step_withinInstance {s : State} (hs : s.valid = true) (hin : ∀ e ∈ s.inputs, e.withinInstance = true) :
    ∃ t, step s = .next t ∧ keepsParameters s t ∧ ∀ e ∈ t.inputs, e.withinInstance = true := by
  rcases hi : s.inputs with _ | ⟨w | c | _, rest⟩ <;> rw [hi] at hin
  · exact ⟨s, step_idle hi, ⟨rfl, rfl, hs⟩, by simp [hi]⟩
  · obtain ⟨hw, hrest⟩ := List.forall_mem_cons.1 hin
    have hnot : (decode w).isConstruct = false := by simpa [HostEvent.withinInstance] using hw
    obtain ⟨t, ht⟩ := exec_completes_of_valid (decode w) (s := s.withInputs rest) hs
    have hkeeps : keepsParameters (s.withInputs rest) t := exec_keepsParameters ht hnot hs
    refine ⟨t, (step_command hi).trans ht, hkeeps, ?_⟩
    rwa [exec_inputs ht]
  · exact nomatch hin _ List.mem_cons_self
  · refine ⟨_, step_takeResponse hi, ⟨by simp, by simp, by simpa using hs⟩, ?_⟩
    simpa using (List.forall_mem_cons.1 hin).2

theorem run_withinInstance (k : Nat) {s : State} (hs : s.valid = true)
    (hin : ∀ e ∈ s.inputs, e.withinInstance = true) : ∃ t, run k s = .next t ∧ keepsParameters s t := by
  induction k generalizing s with
  | zero => exact ⟨s, run_zero s, rfl, rfl, hs⟩
  | succ k ih =>
    obtain ⟨u, hu, hkeeps, huin⟩ := step_withinInstance hs hin
    obtain ⟨hpoly, hinit, huvalid⟩ := hkeeps
    obtain ⟨t, ht, hkeeps'⟩ := ih huvalid huin
    exact ⟨t, (run_succ_of_next hu).trans ht, keepsParameters.trans ⟨hpoly, hinit, huvalid⟩ hkeeps'⟩

/-! ### The host's duty to construct first (R79) -/

@[simp] theorem constructsFirst_nil (v : Bool) : constructsFirst v [] = true := rfl
@[simp] theorem constructsFirst_command (v : Bool) (w : CommandWord) (rest : List HostEvent) :
    constructsFirst v (.command w :: rest) = ((v || (decode w).isConstruct) && constructsFirst true rest) := rfl
@[simp] theorem constructsFirst_hardwareReset (v : Bool) (c : Option CommandWord) (rest : List HostEvent) :
    constructsFirst v (.hardwareReset c :: rest) = constructsFirst false rest := rfl
@[simp] theorem constructsFirst_takeResponse (v : Bool) (rest : List HostEvent) :
    constructsFirst v (.takeResponse :: rest) = constructsFirst v rest := rfl

/-- A command that has completed was allowed by the duty of R79. -/
theorem valid_or_isConstruct_of_exec {i : Instr} {s t : State} (h : exec i s = .next t) :
    (s.valid || i.isConstruct) = true := by
  by_contra hduty
  obtain ⟨hs, hi⟩ : s.valid = false ∧ i.isConstruct = false := by simpa using hduty
  exact nomatch (exec_of_not_valid hi hs).symm.trans h

theorem not_valid_or_isConstruct_of_exec_refused {i : Instr} {s : State} {r : Refusal} (h : exec i s = .refused r) :
    (s.valid || i.isConstruct) = false := by
  obtain ⟨hs, hi⟩ := not_constructed_of_exec_refused h
  rw [hs, hi, Bool.or_false]

/-- A stream is carried out whole exactly when the host keeps its duty all through it. -/
theorem run_completes_iff {evs : List HostEvent} {s : State} (hin : s.inputs = evs) :
    (∃ t, run evs.length s = .next t) ↔ constructsFirst s.valid evs = true := by
  induction evs generalizing s with
  | nil => simp
  | cons e rest ih =>
    rw [List.length_cons]
    cases e with
    | command w =>
      rw [constructsFirst_command]
      cases hexec : exec (decode w) (s.withInputs rest) with
      | next u =>
        have hduty : (s.valid || (decode w).isConstruct) = true :=
          valid_or_isConstruct_of_exec (s := s.withInputs rest) hexec
        rw [run_succ_of_next ((step_command hin).trans hexec), ih (exec_inputs hexec), exec_valid hexec, hduty,
          Bool.true_and]
      | fault f => exact nomatch f
      | refused r =>
        have hduty : (s.valid || (decode w).isConstruct) = false :=
          not_valid_or_isConstruct_of_exec_refused (s := s.withInputs rest) hexec
        simp [run_succ_of_refused ((step_command hin).trans hexec), hduty]
    | hardwareReset c =>
      rw [run_succ_of_next (step_hardwareReset hin), constructsFirst_hardwareReset]
      exact ih (s := (s.withInputs rest).hwReset) rfl
    | takeResponse =>
      rw [run_succ_of_next (step_takeResponse hin), constructsFirst_takeResponse]
      simpa using ih (State.takeResponse_inputs (s.withInputs rest))

/-- A run that does not complete is refused. -/
theorem run_refused_iff (k : Nat) (s : State) : run k s = .refused .notConstructed ↔ ¬ ∃ t, run k s = .next t := by
  constructor
  · rintro hrefused ⟨t, ht⟩
    exact nomatch hrefused.symm.trans ht
  · exact (run_completes_or_refused k s).resolve_left

/-! ### What a register holds while it holds no value (R24) -/

theorem sameButNoValue.withInputs {s t : State} (h : sameButNoValue s t) (evs : List HostEvent) :
    sameButNoValue (s.withInputs evs) (t.withInputs evs) := by
  obtain ⟨hvalid, -, hwaiting, hdelivered, hregs⟩ := h
  exact ⟨hvalid, rfl, hwaiting, hdelivered, hregs⟩

/-- A hardware reset leaves nothing in which two such states differ but registers that hold no value. -/
theorem sameButNoValue.hwReset {s t : State} (h : sameButNoValue s t) : sameButNoValue s.hwReset t.hwReset := by
  obtain ⟨-, hinputs, -, hdelivered, -⟩ := h
  exact ⟨rfl, hinputs, rfl, hdelivered, nofun⟩

theorem sameButNoValue.takeResponse {s t : State} (h : sameButNoValue s t) :
    sameButNoValue s.takeResponse t.takeResponse := by
  obtain ⟨hvalid, hinputs, hwaiting, hdelivered, hregs⟩ := h
  refine ⟨?_, ?_, ?_, ?_, ?_⟩
  · simpa using hvalid
  · simpa using hinputs
  · simp [hwaiting]
  · simp [hwaiting, hdelivered]
  · simpa using hregs

/-- With VALID = 1 nothing is left to differ in but the number of draws, so the engines are the same. -/
theorem sameButNoValue.sameEngine_of_valid {s t : State} (h : sameButNoValue s t) (hs : s.valid = true) :
    sameEngine s t := by
  obtain ⟨hvalid, -, -, -, hregs⟩ := h
  obtain ⟨hpoly, hinit, hcrc⟩ := hregs hs
  exact ⟨hpoly, hinit, hcrc, hvalid⟩

/-- With VALID = 1 a command does the same on both blocks, since the engines are the same; with VALID = 0 it is either
refused on both or a CONSTRUCT, which writes all three registers. -/
theorem exec_sameButNoValue (i : Instr) {s t : State} (h : sameButNoValue s t) :
    sameOutcomeButNoValue (exec i s) (exec i t) := by
  obtain ⟨hvalid, hinputs, hwaiting, hdelivered, -⟩ := id h
  cases hs : s.valid with
  | true =>
    have hsame : sameEngine s t := h.sameEngine_of_valid hs
    obtain ⟨u, hu⟩ := exec_completes_of_valid i hs
    obtain ⟨u', hu', hpoly, hinit, hcrc, hvalid'⟩ := exec_of_sameEngine hsame hu
    obtain ⟨-, -, hcrcBefore, -⟩ := hsame
    rw [hu, hu']
    refine ⟨hvalid', ?_, ?_, ?_, fun _ => ⟨hpoly, hinit, hcrc⟩⟩
    · rw [exec_inputs hu, exec_inputs hu', hinputs]
    · rw [exec_undelivered hu, exec_undelivered hu', hwaiting, hcrcBefore]
    · rw [exec_delivered hu, exec_delivered hu', hdelivered]
  | false =>
    have ht : t.valid = false := hvalid ▸ hs
    cases i with
    | construct p j =>
      rw [exec_construct, exec_construct]
      exact ⟨rfl, hinputs, hwaiting, hdelivered, fun _ => ⟨rfl, rfl, rfl⟩⟩
    | result | update | reset =>
      rw [exec_of_not_valid rfl hs, exec_of_not_valid rfl ht]
      rfl

theorem step_sameButNoValue {s t : State} (h : sameButNoValue s t) : sameOutcomeButNoValue (step s) (step t) := by
  have hinputs : s.inputs = t.inputs := by
    obtain ⟨-, hinputs, -⟩ := h
    exact hinputs
  rcases hs : s.inputs with _ | ⟨w | c | _, rest⟩ <;> have ht := hinputs.symm.trans hs
  · rw [step_idle hs, step_idle ht]
    exact h
  · rw [step_command hs, step_command ht]
    exact exec_sameButNoValue (decode w) (h.withInputs rest)
  · rw [step_hardwareReset hs, step_hardwareReset ht]
    exact (h.withInputs rest).hwReset
  · rw [step_takeResponse hs, step_takeResponse ht]
    exact (h.withInputs rest).takeResponse

/-- Such outcomes are two such states or one refusal. -/
theorem sameOutcomeButNoValue_cases {o o' : Host.Outcome State Fault Refusal} (h : sameOutcomeButNoValue o o') :
    (∃ u v, o = .next u ∧ o' = .next v ∧ sameButNoValue u v) ∨ ∃ r, o = .refused r ∧ o' = .refused r := by
  match o, o', h with
  | .next u, .next v, h => exact .inl ⟨u, v, rfl, rfl, h⟩
  | .refused r, .refused _, rfl => exact .inr ⟨r, rfl, rfl⟩

/-- Runs of such states go on step by step with such states, until both are refused. -/
theorem run_sameButNoValue (k : Nat) {s t : State} (h : sameButNoValue s t) :
    sameOutcomeButNoValue (run k s) (run k t) := by
  induction k generalizing s t with
  | zero => exact h
  | succ k ih =>
    obtain ⟨u, v, hs, ht, huv⟩ | ⟨r, hs, ht⟩ := sameOutcomeButNoValue_cases (step_sameButNoValue h)
    · rw [run_succ_of_next hs, run_succ_of_next ht]
      exact ih huv
    · rw [run_succ_of_refused hs, run_succ_of_refused ht]
      rfl

/-! ### When the host takes its responses (R86) -/

/-- Two blocks that differ at most in which responses are delivered already. -/
def sameButDelivery (s t : State) : Prop := sameEngine s t ∧ s.observation = t.observation

theorem sameButDelivery.takeResponse_left {s t : State} (h : sameButDelivery s t) :
    sameButDelivery s.takeResponse t := by
  obtain ⟨⟨hpoly, hinit, hcrc, hvalid⟩, hobs⟩ := h
  exact ⟨⟨by simpa using hpoly, by simpa using hinit, by simpa using hcrc, by simpa using hvalid⟩, by simpa using hobs⟩

theorem exec_of_sameButDelivery {i : Instr} {s s' t : State} (h : sameButDelivery s s') (hexec : exec i s = .next t) :
    ∃ t', exec i s' = .next t' ∧ sameButDelivery t t' := by
  obtain ⟨hsame, hobs⟩ := h
  obtain ⟨t', hexec', htsame⟩ := exec_of_sameEngine hsame hexec
  obtain ⟨-, -, hcrc, -⟩ := hsame
  refine ⟨t', hexec', htsame, ?_⟩
  rw [exec_observation hexec, exec_observation hexec', hobs, hcrc]

/-- A stream without hardware resets that is carried out is also carried out without its takings, to a state that
differs at most in which responses are delivered already. -/
theorem run_without_takings {evs : List HostEvent} {s s' t : State} (h : sameButDelivery s s')
    (hreset : ∀ c, .hardwareReset c ∉ evs) (hin : s.inputs = evs) (hin' : s'.inputs = evs.filter (· ≠ .takeResponse))
    (hrun : run evs.length s = .next t) :
    ∃ t', run (evs.filter (· ≠ .takeResponse)).length s' = .next t' ∧ sameButDelivery t t' := by
  induction evs generalizing s s' with
  | nil =>
    obtain rfl : s = t := by simpa using hrun
    exact ⟨s', rfl, h⟩
  | cons e rest ih =>
    have hreset' : ∀ c, .hardwareReset c ∉ rest := fun c hc => hreset c (List.mem_cons_of_mem e hc)
    rw [List.length_cons] at hrun
    cases e with
    | command w =>
      rw [List.filter_cons_of_pos (by simp)] at hin' ⊢
      rw [List.length_cons]
      cases hexec : exec (decode w) (s.withInputs rest) with
      | next u =>
        have hbefore : sameButDelivery (s.withInputs rest) (s'.withInputs (rest.filter (· ≠ .takeResponse))) := h
        obtain ⟨u', hexec', hafter⟩ := exec_of_sameButDelivery hbefore hexec
        rw [run_succ_of_next ((step_command hin).trans hexec)] at hrun
        rw [run_succ_of_next ((step_command hin').trans hexec')]
        exact ih hafter hreset' (exec_inputs hexec) (exec_inputs hexec') hrun
      | fault f => exact nomatch f
      | refused r => exact nomatch (run_succ_of_refused ((step_command hin).trans hexec)).symm.trans hrun
    | hardwareReset c => exact absurd List.mem_cons_self (hreset c)
    | takeResponse =>
      rw [List.filter_cons_of_neg (by simp)] at hin' ⊢
      rw [run_succ_of_next (step_takeResponse hin)] at hrun
      exact ih (sameButDelivery.takeResponse_left (s := s.withInputs rest) h) hreset' (State.takeResponse_inputs _)
        hin' hrun

/-! ### The statements -/

/-- Settles O26: there is no fault to raise, and a refused run has the one reason there is. -/
theorem noExceptionEver : Obligations.NoExceptionEver := by
  unfold Obligations.NoExceptionEver
  exact ⟨⟨nofun⟩, run_completes_or_refused⟩

/-- Settles O30, by induction on the number of steps. -/
theorem parametersFixedThroughAnInstance : Obligations.ParametersFixedThroughAnInstance := by
  unfold Obligations.ParametersFixedThroughAnInstance
  exact fun k s hs hin => run_withinInstance k hs hin

/-- Settles O46, by induction on the stream; the second half is the first with both sides negated. -/
theorem carriedOutExactlyWhenConstructedFirst : Obligations.CarriedOutExactlyWhenConstructedFirst := by
  unfold Obligations.CarriedOutExactlyWhenConstructedFirst
  intro s
  have hcarried := run_completes_iff (s := s) rfl
  refine ⟨hcarried.symm, ?_⟩
  rw [run_refused_iff, hcarried, Bool.not_eq_true]

/-- Settles O47, by induction on the number of steps. -/
theorem noValueIsNeverObserved : Obligations.NoValueIsNeverObserved := by
  unfold Obligations.NoValueIsNeverObserved
  exact fun k s t h => run_sameButNoValue k h

/-- Settles O50, by induction on the stream. -/
theorem deliveryTimingIsNotObserved : Obligations.DeliveryTimingIsNotObserved := by
  unfold Obligations.DeliveryTimingIsNotObserved
  exact fun s t hreset hrun => run_without_takings ⟨sameEngine.refl s, rfl⟩ hreset rfl rfl hrun

end Sys2Proof.Machine
end

section
/-! Proofs about the engine as an operator (41_update.md section 3, 43_properties.md): the step and the byte fold are
linear over XOR, and what that says of initial values, of bijectivity and of the order of bytes. -/

namespace Sys2Proof.Machine

/-! ### The step bit by bit (R52) -/

theorem feedback_eq_getLsbD (c : Byte) : feedback c = c.getLsbD 7 := rfl

theorem getLsbD_ite_zero (b : Bool) (p : Byte) (j : Nat) :
    (if b = true then p else 0).getLsbD j = (b && p.getLsbD j) := by
  cases b <;> simp

theorem getLsbD_lfsrStep (c p : Byte) (j : Nat) :
    (lfsrStep c p).getLsbD j = ((shl1 c).getLsbD j ^^ (c.getLsbD 7 && p.getLsbD j)) := by
  rw [lfsrStep_eq_xor, BitVec.getLsbD_xor, getLsbD_ite_zero, feedback_eq_getLsbD]

theorem getLsbD_lfsrStep_zero (c p : Byte) : (lfsrStep c p).getLsbD 0 = (c.getLsbD 7 && p.getLsbD 0) := by
  rw [getLsbD_lfsrStep, getLsbD_shl1_zero, Bool.false_xor]

theorem getLsbD_lfsrStep_succ (c p : Byte) {j : Nat} (hj : j + 1 < 8) :
    (lfsrStep c p).getLsbD (j + 1) = (c.getLsbD j ^^ (c.getLsbD 7 && p.getLsbD (j + 1))) := by
  rw [getLsbD_lfsrStep, getLsbD_shl1_succ c hj]

/-! ### Linearity over XOR -/

theorem byte_zero_xor (x : Byte) : 0 ^^^ x = x := BitVec.zero_xor

theorem byte_xor_zero (x : Byte) : x ^^^ 0 = x := BitVec.xor_zero

theorem shl1_xor (a b : Byte) : shl1 (a ^^^ b) = shl1 a ^^^ shl1 b := BitVec.shiftLeft_xor_distrib ..

theorem lfsrStep_xor (a b p : Byte) : lfsrStep (a ^^^ b) p = lfsrStep a p ^^^ lfsrStep b p := by
  refine BitVec.eq_of_getLsbD_eq fun j _ => ?_
  simp only [getLsbD_lfsrStep, BitVec.getLsbD_xor, shl1_xor, Bool.and_xor_distrib_right, Bool.xor_assoc,
    Bool.xor_left_comm]

theorem lfsrStep_iterate_xor (n : Nat) (a b p : Byte) :
    (fun x => lfsrStep x p)^[n] (a ^^^ b) = (fun x => lfsrStep x p)^[n] a ^^^ (fun x => lfsrStep x p)^[n] b := by
  induction n generalizing a b with
  | zero => rfl
  | succ n ih => simp only [Function.iterate_succ_apply, lfsrStep_xor, ih]

/-- The byte and the accumulator are added before the steps, so `update` is linear in both together. -/
theorem update_xor (a b p x y : Byte) : update (a ^^^ b) p (x ^^^ y) = update a p x ^^^ update b p y := by
  have hswap : a ^^^ b ^^^ (x ^^^ y) = a ^^^ x ^^^ (b ^^^ y) := by ac_rfl
  rw [update_eq_iterate, hswap, lfsrStep_iterate_xor, ← update_eq_iterate, ← update_eq_iterate]

/-- Table form. -/
theorem update_eq_update_zero (c p b : Byte) : update c p b = update 0 p (c ^^^ b) := by
  rw [update_eq_iterate, update_eq_iterate, byte_zero_xor]

/-! ### The fold over a message -/

/-- What is added to the initial value goes through the fold as if all bytes were zero. -/
theorem crc8_xor_left (p a c : Byte) (bs : List Byte) :
    crc8 p (a ^^^ c) bs = crc8 p a (List.replicate bs.length 0) ^^^ crc8 p c bs := by
  induction bs generalizing a c with
  | nil => rfl
  | cons b bs ih =>
    have hfold : update (a ^^^ c) p b = update a p 0 ^^^ update c p b := by
      rw [← update_xor, byte_zero_xor]
    rw [crc8_cons, hfold, ih, List.length_cons, List.replicate_succ, crc8_cons, crc8_cons]

/-- The initial value as a term of its own. -/
theorem crc8_eq_xor (p i : Byte) (bs : List Byte) :
    crc8 p i bs = crc8 p i (List.replicate bs.length 0) ^^^ crc8 p 0 bs := by
  rw [← crc8_xor_left, byte_xor_zero]

theorem crc8_append_checksum (p c : Byte) (bs : List Byte) : crc8 p c (bs ++ [crc8 p c bs]) = 0 := by
  rw [crc8_append, crc8_cons, crc8_nil, update_self]

theorem crc8_poly_zero (bs : List Byte) : crc8 0 0 bs = 0 := by
  induction bs with
  | nil => rfl
  | cons b bs ih => rw [crc8_cons, update_poly_zero, ih]

theorem crc8_poly_one (i : Byte) (bs : List Byte) : crc8 1 i bs = bs.foldl (· ^^^ ·) i := by
  induction bs generalizing i with
  | nil => rfl
  | cons b bs ih => rw [crc8_cons, update_poly_one, ih, List.foldl_cons]

/-! ### Bijectivity -/

/-- With p[0] = 1, bit 0 of the step tells the bit that left, and the other bits tell the rest. -/
theorem lfsrStep_injective {p : Byte} (hp : p.getLsbD 0 = true) : Function.Injective fun c => lfsrStep c p := by
  intro a b h
  have hbit (j : Nat) : (lfsrStep a p).getLsbD j = (lfsrStep b p).getLsbD j := congrArg (BitVec.getLsbD · j) h
  have htop : a.getLsbD 7 = b.getLsbD 7 := by
    simpa only [getLsbD_lfsrStep_zero, hp, Bool.and_true] using hbit 0
  refine BitVec.eq_of_getLsbD_eq fun j hj => ?_
  by_cases hlast : j = 7
  · rw [hlast, htop]
  · have hj' : j + 1 < 8 := by omega
    simpa only [getLsbD_lfsrStep_succ _ _ hj', htop, Bool.xor_left_inj] using hbit (j + 1)

/-- With p[0] = 0 no step leads to an odd value. -/
theorem odd_poly_of_lfsrStep_surjective {p : Byte} (h : Function.Surjective fun c => lfsrStep c p) :
    p.getLsbD 0 = true := by
  obtain ⟨c, hc⟩ := h 1
  have hbit : (c.getLsbD 7 && p.getLsbD 0) = true := by
    rw [← getLsbD_lfsrStep_zero, show lfsrStep c p = 1 from hc]
    rfl
  exact (Bool.and_eq_true_iff.1 hbit).2

theorem lfsrStep_bijective_iff (p : Byte) : (Function.Bijective fun c => lfsrStep c p) ↔ p.getLsbD 0 = true := by
  constructor
  · exact fun h => odd_poly_of_lfsrStep_surjective h.surjective
  · exact fun hp => Finite.injective_iff_bijective.1 (lfsrStep_injective hp)

theorem update_zero_eq_iterate (p : Byte) : (fun x => update 0 p x) = (fun c => lfsrStep c p)^[8] := by
  funext x
  rw [update_eq_iterate, byte_zero_xor]

/-- The byte map is the step eight times, so it is a bijection exactly when the step is. -/
theorem update_zero_bijective_iff (p : Byte) : (Function.Bijective fun x => update 0 p x) ↔ p.getLsbD 0 = true := by
  constructor
  · intro h
    have hsurj := h.surjective
    rw [update_zero_eq_iterate, Function.iterate_succ'] at hsurj
    exact odd_poly_of_lfsrStep_surjective hsurj.of_comp
  · intro hp
    rw [update_zero_eq_iterate]
    exact ((lfsrStep_bijective_iff p).2 hp).iterate 8

/-! ### The order of the bytes -/

/-- Every byte is got from 1 by steps and XORs: it is the step of itself shifted right, and its own bit 0. -/
theorem byte_eq_lfsrStep_xor (x p : Byte) : x = lfsrStep (x >>> 1) p ^^^ if x.getLsbD 0 = true then 1 else 0 := by
  have htop : feedback (x >>> 1) = false := by simp [feedback]
  rw [lfsrStep_of_not_feedback htop]
  refine BitVec.eq_of_getLsbD_eq fun j hj => ?_
  rw [BitVec.getLsbD_xor, getLsbD_ite_zero]
  cases j with
  | zero =>
    rw [getLsbD_shl1_zero, Bool.false_xor]
    simp
  | succ j =>
    have hj' : j < 8 := by omega
    simp [getLsbD_shl1_succ _ hj, hj', Nat.add_comm]

theorem byte_induction {P : Byte → Prop} (p : Byte) (hzero : P 0) (hone : P 1)
    (hxor : ∀ a b, P a → P b → P (a ^^^ b)) (hstep : ∀ a, P a → P (lfsrStep a p)) (x : Byte) : P x := by
  induction hn : x.toNat using Nat.strong_induction_on generalizing x with
  | _ n ih =>
    by_cases hx : x = 0
    · rwa [hx]
    · have hpos : x.toNat ≠ 0 := fun h => hx (BitVec.eq_of_toNat_eq h)
      have hsmaller : (x >>> 1).toNat < n := by
        rw [BitVec.toNat_ushiftRight, Nat.shiftRight_eq_div_pow]
        omega
      have hbit : P (if x.getLsbD 0 = true then 1 else 0) := by split <;> assumption
      rw [byte_eq_lfsrStep_xor x p]
      exact hxor _ _ (hstep _ (ih _ hsmaller _ rfl)) hbit

theorem update_zero_xor (p a b : Byte) : update 0 p (a ^^^ b) = update 0 p a ^^^ update 0 p b :=
  update_xor 0 0 p a b

/-- The byte map is made of steps, so it can be taken before or after one more. -/
theorem update_zero_lfsrStep (p x : Byte) : update 0 p (lfsrStep x p) = lfsrStep (update 0 p x) p := by
  have hcomm := (Function.Commute.iterate_self (fun c => lfsrStep c p) 8).eq x
  rwa [← update_zero_eq_iterate] at hcomm

/-- If taking the byte map twice does the same to 1 as taking it once, it does so to every byte. -/
theorem update_zero_idempotent {p : Byte} (hone : update 0 p (update 0 p 1) = update 0 p 1) (x : Byte) :
    update 0 p (update 0 p x) = update 0 p x := by
  induction x using byte_induction p with
  | hzero => rw [update_self, update_self]
  | hone => exact hone
  | hxor a b ha hb => rw [update_zero_xor, update_zero_xor, ha, hb]
  | hstep a ha => rw [update_zero_lfsrStep, update_zero_lfsrStep, ha]

/-- Two bytes one after the other, as three terms. -/
theorem update_update (c p a b : Byte) :
    update (update c p a) p b = update 0 p (update 0 p c) ^^^ update 0 p (update 0 p a) ^^^ update 0 p b := by
  rw [update_eq_update_zero _ p b, update_eq_update_zero c, update_zero_xor, update_zero_xor, update_zero_xor]

theorem crc8_eq_foldl (p c : Byte) (bs : List Byte) : crc8 p c bs = bs.foldl (fun c b => update c p b) c := by
  induction bs generalizing c with
  | nil => rfl
  | cons b bs ih => exact ih (update c p b)

/-- Where the byte map taken twice is the byte map, neighbouring bytes may be exchanged, and so any. -/
theorem crc8_perm {p : Byte} (hone : update 0 p (update 0 p 1) = update 0 p 1) (i : Byte) {bs bs' : List Byte}
    (h : bs.Perm bs') : crc8 p i bs = crc8 p i bs' := by
  rw [crc8_eq_foldl, crc8_eq_foldl]
  refine h.foldl_eq' (fun a _ b _ c => ?_) i
  simp only [update_update, update_zero_idempotent hone]
  ac_rfl

/-- The two orders of 0x01 and 0x00 compare the byte map taken twice with the byte map taken once. -/
theorem crc8_one_zero_eq_iff (p i : Byte) :
    crc8 p i [0x01, 0x00] = crc8 p i [0x00, 0x01] ↔ update 0 p (update 0 p 1) = update 0 p 1 := by
  simp only [crc8_cons, crc8_nil, update_update, update_self, byte_xor_zero, BitVec.xor_right_inj]

set_option maxRecDepth 2000 in
/-- The nine polynomials, found by trying all 256 on the byte 0x01. -/
theorem update_zero_one_idempotent_iff : ∀ p : Byte, update 0 p (update 0 p 1) = update 0 p 1 ↔
    p ∈ [0x00, 0x01, 0x10, 0x40, 0x54, 0x80, 0x98, 0xE0, 0xFE] := by
  decide

/-- The witness of order sensitivity, byte by byte. -/
theorem crc8_of_two_orders :
    crc8 0x07 0x00 [0x01, 0x02] = 0x1B ∧ crc8 0x07 0x00 [0x02, 0x01] = 0x2D := by
  have hfirst : update 0x00 0x07 0x01 = 0x07 ∧ update 0x00 0x07 0x02 = 0x0E := by decide
  have hsecond : update 0x07 0x07 0x02 = 0x1B ∧ update 0x0E 0x07 0x01 = 0x2D := by decide
  simp only [crc8_cons, crc8_nil, hfirst, hsecond, and_self]

/-! ### The statements -/

/-- Settles O10. -/
theorem stepAsWires : Obligations.StepAsWires := by
  unfold Obligations.StepAsWires
  refine fun c p => ⟨getLsbD_lfsrStep_zero c p, fun j hj hj' => ?_⟩
  obtain ⟨k, rfl⟩ : ∃ k, j = k + 1 := ⟨j - 1, by omega⟩
  exact getLsbD_lfsrStep_succ c p (by omega)

/-- Settles O13. -/
theorem onlyTheXorOfCrcAndByteMatters : Obligations.OnlyTheXorOfCrcAndByteMatters := by
  unfold Obligations.OnlyTheXorOfCrcAndByteMatters
  exact update_eq_update_zero

/-- Settles O14: bit by bit for the step, by iteration for the byte fold. -/
theorem engineIsLinearOverXor : Obligations.EngineIsLinearOverXor := by
  unfold Obligations.EngineIsLinearOverXor
  exact ⟨lfsrStep_xor, update_xor⟩

/-- Settles O15: the checksum is two terms, and XORing one of them away leaves the other. -/
theorem initialValueTermDependsOnLengthOnly : Obligations.InitialValueTermDependsOnLengthOnly := by
  unfold Obligations.InitialValueTermDependsOnLengthOnly
  intro p i bs
  rw [crc8_eq_xor p i bs, BitVec.xor_assoc, BitVec.xor_self]
  exact byte_xor_zero _

/-- Settles O16: the last byte equals the accumulator. -/
theorem checksumAppendedLeavesZero : Obligations.ChecksumAppendedLeavesZero := by
  unfold Obligations.ChecksumAppendedLeavesZero
  exact crc8_append_checksum

/-- Settles O17: with 0x00 the first byte empties the accumulator, with 0x01 each byte is XORed in. -/
theorem degeneratePolynomials : Obligations.DegeneratePolynomials := by
  unfold Obligations.DegeneratePolynomials
  refine ⟨fun i bs hbs => ?zero, crc8_poly_one⟩
  case zero =>
    cases bs with
    | nil => exact absurd rfl hbs
    | cons b bs => rw [crc8_cons, update_poly_zero, crc8_poly_zero]

/-- Settles O18. -/
theorem bijectiveExactlyForOddPolynomials : Obligations.BijectiveExactlyForOddPolynomials := by
  unfold Obligations.BijectiveExactlyForOddPolynomials
  exact fun p => ⟨lfsrStep_bijective_iff p, update_zero_bijective_iff p⟩

/-- Settles O19: order is ignored exactly where the byte map does the same to 1 twice as once, which the two orders of
0x01 and 0x00 test, and which holds for nine polynomials. -/
theorem exactlyNinePolynomialsIgnoreOrder : Obligations.ExactlyNinePolynomialsIgnoreOrder := by
  unfold Obligations.ExactlyNinePolynomialsIgnoreOrder
  obtain ⟨hfirst, hsecond⟩ := crc8_of_two_orders
  refine ⟨hfirst, hsecond, fun p => ⟨fun hperm => ?nine, fun hp i bs bs' => ?ignored⟩, fun p i hp => ?others⟩
  case nine =>
    have hequal : crc8 p 0 [0x01, 0x00] = crc8 p 0 [0x00, 0x01] := hperm 0 _ _ (List.Perm.swap ..)
    exact (update_zero_one_idempotent_iff p).1 ((crc8_one_zero_eq_iff p 0).1 hequal)
  case ignored => exact crc8_perm ((update_zero_one_idempotent_iff p).2 hp) i
  case others => exact fun h => hp ((update_zero_one_idempotent_iff p).1 ((crc8_one_zero_eq_iff p i).1 h))

end Sys2Proof.Machine
end

section
/-! Proofs about polynomial division over GF(2) (43_properties.md section 2): one step multiplies by x modulo the
generator, so a byte multiplies by x^8 after it is added in, and a value of 8 bits is its own remainder. -/

namespace Sys2Proof.Machine

open Polynomial

/-! ### Bytes as polynomials -/

theorem ite_xor_eq_add (a b : Bool) (f : (ZMod 2)[X]) :
    (if (a ^^ b) = true then f else 0) = (if a = true then f else 0) + if b = true then f else 0 := by
  cases a <;> cases b <;> simp [CharTwo.add_self_eq_zero]

theorem gf2Poly_xor (a b : Byte) : gf2Poly (a ^^^ b) = gf2Poly a + gf2Poly b := by
  simp only [gf2Poly, BitVec.getLsbD_xor, ite_xor_eq_add, Finset.sum_add_distrib]

theorem gf2Poly_zero : gf2Poly 0 = 0 :=
  Finset.sum_eq_zero fun k _ => if_neg (by simp)

theorem gf2Poly_ite_zero (b : Bool) (p : Byte) :
    gf2Poly (if b = true then p else 0) = if b = true then gf2Poly p else 0 := by
  rw [apply_ite gf2Poly, gf2Poly_zero]

theorem degree_gf2Poly_lt (v : Byte) : (gf2Poly v).degree < 8 := by
  refine mem_degreeLT.1 (Submodule.sum_mem _ fun k hk => ?_)
  split
  · exact mem_degreeLT.2 ((degree_X_pow_le k).trans_lt (by exact_mod_cast Finset.mem_range.1 hk))
  · exact Submodule.zero_mem _

/-- Multiplying by x shifts left, and the bit that leaves is the coefficient of x^8. -/
theorem X_mul_gf2Poly (c : Byte) :
    X * gf2Poly c = gf2Poly (shl1 c) + if feedback c = true then X ^ 8 else 0 := by
  have hshifted : gf2Poly (shl1 c) = ∑ k ∈ Finset.range 7, if c.getLsbD k = true then X ^ (k + 1) else 0 := by
    rw [gf2Poly, Finset.sum_range_succ', getLsbD_shl1_zero]
    simp only [Bool.false_eq_true, if_false, add_zero]
    refine Finset.sum_congr rfl fun k hk => ?_
    have hk' : k + 1 < 8 := Nat.succ_lt_succ (Finset.mem_range.1 hk)
    rw [getLsbD_shl1_succ c hk']
  rw [hshifted, gf2Poly, Finset.sum_range_succ, mul_add, Finset.mul_sum, feedback_eq_getLsbD]
  simp only [mul_ite, mul_zero, ← pow_succ']

/-! ### The generator -/

/-- The generator of a polynomial register: its x^8 term is 1 and not stored. -/
noncomputable def generator (p : Byte) : (ZMod 2)[X] := X ^ 8 + gf2Poly p

theorem generator_monic (p : Byte) : (generator p).Monic := monic_X_pow_add (degree_gf2Poly_lt p)

theorem degree_generator (p : Byte) : (generator p).degree = 8 := by
  have hlt : (gf2Poly p).degree < (X ^ 8 : (ZMod 2)[X]).degree := by
    rw [degree_X_pow]
    exact degree_gf2Poly_lt p
  rw [generator, degree_add_eq_left_of_degree_lt hlt, degree_X_pow]
  rfl

/-- A value of 8 bits is the remainder of what it is congruent to. -/
theorem gf2Poly_eq_modByMonic {p v : Byte} {f : (ZMod 2)[X]}
    (h : AdjoinRoot.mk (generator p) (gf2Poly v) = AdjoinRoot.mk (generator p) f) :
    gf2Poly v = f %ₘ generator p := by
  have hdegree : (gf2Poly v).degree < (generator p).degree := by
    rw [degree_generator]
    exact degree_gf2Poly_lt v
  calc gf2Poly v
      = gf2Poly v %ₘ generator p := ((modByMonic_eq_self_iff (generator_monic p)).2 hdegree).symm
    _ = f %ₘ generator p := modByMonic_eq_of_dvd_sub (generator_monic p) (AdjoinRoot.mk_eq_mk.1 h)

/-! ### The engine modulo the generator -/

/-- One step multiplies by x and takes the generator away if x^8 appears. -/
theorem gf2Poly_lfsrStep (c p : Byte) :
    gf2Poly (lfsrStep c p) + (if feedback c = true then generator p else 0) = X * gf2Poly c := by
  rw [X_mul_gf2Poly, lfsrStep_eq_xor, gf2Poly_xor, gf2Poly_ite_zero, generator]
  cases feedback c with
  | false => simp
  | true =>
    have htwice : gf2Poly p + gf2Poly p = 0 := CharTwo.add_self_eq_zero _
    simp only [if_true]
    linear_combination htwice

theorem mk_gf2Poly_lfsrStep (c p : Byte) :
    AdjoinRoot.mk (generator p) (gf2Poly (lfsrStep c p)) = AdjoinRoot.mk (generator p) (X * gf2Poly c) := by
  have hzero : AdjoinRoot.mk (generator p) (if feedback c = true then generator p else 0) = 0 := by
    split
    · exact AdjoinRoot.mk_self
    · exact map_zero _
  rw [← gf2Poly_lfsrStep, map_add, hzero, add_zero]

theorem mk_gf2Poly_lfsrStep_iterate (n : Nat) (c p : Byte) :
    AdjoinRoot.mk (generator p) (gf2Poly ((fun x => lfsrStep x p)^[n] c)) =
      AdjoinRoot.mk (generator p) (gf2Poly c * X ^ n) := by
  induction n with
  | zero => simp
  | succ n ih =>
    rw [Function.iterate_succ_apply', mk_gf2Poly_lfsrStep, map_mul, ih, ← map_mul, mul_comm, mul_assoc, ← pow_succ]

theorem mk_gf2Poly_update (c p b : Byte) :
    AdjoinRoot.mk (generator p) (gf2Poly (update c p b)) =
      AdjoinRoot.mk (generator p) (gf2Poly (c ^^^ b) * X ^ 8) := by
  rw [update_eq_iterate, mk_gf2Poly_lfsrStep_iterate]

/-- The first byte of a message stands over all the others (R54). -/
theorem messagePoly_cons_mul (i b : Byte) (bs : List Byte) :
    gf2Poly i * X ^ (8 * (b :: bs).length) + messagePoly (b :: bs) * X ^ 8 =
      gf2Poly (i ^^^ b) * X ^ 8 * X ^ (8 * bs.length) + messagePoly bs * X ^ 8 := by
  rw [messagePoly, gf2Poly_xor, List.length_cons]
  ring

theorem mk_gf2Poly_crc8 (p i : Byte) (bs : List Byte) :
    AdjoinRoot.mk (generator p) (gf2Poly (crc8 p i bs)) =
      AdjoinRoot.mk (generator p) (gf2Poly i * X ^ (8 * bs.length) + messagePoly bs * X ^ 8) := by
  induction bs generalizing i with
  | nil => simp [messagePoly]
  | cons b bs ih =>
    rw [crc8_cons, ih, map_add, map_mul, mk_gf2Poly_update, ← map_mul, ← map_add, messagePoly_cons_mul]

/-! ### The statement -/

/-- Settles O20. -/
theorem engineDividesPolynomials : Obligations.EngineDividesPolynomials := by
  unfold Obligations.EngineDividesPolynomials
  exact ⟨fun c p b => gf2Poly_eq_modByMonic (mk_gf2Poly_update c p b),
    fun p i bs => gf2Poly_eq_modByMonic (mk_gf2Poly_crc8 p i bs)⟩

end Sys2Proof.Machine
end

section
/-! Proofs about the assembler (30_encoding.md section 5): an operand is read back from its two digits, a command from
its line, and a program from its lines. -/

namespace Sys2Proof.Machine

/-! ### Digits -/

theorem digitValue_hexDigit {n : Nat} (hn : n < 16) : digitValue (hexDigit n) = some n := by
  interval_cases n <;> decide

/-- A character that is part of an operand: no blank, and none of the separators of lines, operands and comments. -/
def isOperandChar (c : Char) : Bool := ! isBlank c && c != '\n' && c != ',' && c != ';'

theorem isOperandChar_hexDigit {n : Nat} (hn : n < 16) : isOperandChar (hexDigit n) = true := by
  interval_cases n <;> decide

theorem isOperandChar_of_mem_showByte {b : Byte} {c : Char} (hc : c ∈ showByte b) : isOperandChar c = true := by
  have hhigh : b.toNat / 16 < 16 := by omega
  have hlow : b.toNat % 16 < 16 := by omega
  simp only [showByte, List.mem_cons, List.not_mem_nil, or_false] at hc
  obtain rfl | rfl | rfl | rfl := hc
  · decide
  · decide
  · exact isOperandChar_hexDigit hhigh
  · exact isOperandChar_hexDigit hlow

theorem showByte_ne_nil (b : Byte) : showByte b ≠ [] := List.cons_ne_nil _ _

theorem numberValue_showByte (b : Byte) : numberValue (showByte b) = some b.toNat := by
  have hhigh : b.toNat / 16 < 16 := by omega
  have hlow : b.toNat % 16 < 16 := by omega
  have hvalue : b.toNat / 16 * 16 + b.toNat % 16 = b.toNat := Nat.div_add_mod' _ _
  simp [showByte, numberValue, digitsValue, digitValue_hexDigit, hhigh, hlow, hvalue]

/-! ### Blanks -/

/-- A text that neither begins nor ends with a blank. -/
def noOuterBlank (cs : List Char) : Prop :=
  (∀ c ∈ cs.head?, isBlank c = false) ∧ ∀ c ∈ cs.getLast?, isBlank c = false

theorem noOuterBlank_showByte (b : Byte) : noOuterBlank (showByte b) := by
  have hchars : ∀ c ∈ showByte b, isBlank c = false := by
    intro c hc
    have hoperand := isOperandChar_of_mem_showByte hc
    simp only [isOperandChar, Bool.and_eq_true, Bool.not_eq_true'] at hoperand
    obtain ⟨⟨⟨hblank, -⟩, -⟩, -⟩ := hoperand
    exact hblank
  exact ⟨fun c hc => hchars c (List.mem_of_mem_head? hc), fun c hc => hchars c (List.mem_of_mem_getLast? hc)⟩

/-- A text that begins with no blank and ends in an operand. -/
theorem noOuterBlank_append_showByte {cs : List Char} (hcs : cs ≠ []) (hhead : ∀ c ∈ cs.head?, isBlank c = false)
    (b : Byte) : noOuterBlank (cs ++ showByte b) := by
  obtain ⟨-, hlast⟩ := noOuterBlank_showByte b
  refine ⟨?_, ?_⟩
  · rwa [List.head?_append_of_ne_nil _ hcs]
  · rwa [List.getLast?_append_of_ne_nil _ (showByte_ne_nil b)]

theorem dropWhile_isBlank_of_head {cs : List Char} (h : ∀ c ∈ cs.head?, isBlank c = false) :
    cs.dropWhile isBlank = cs := by
  cases cs with
  | nil => rfl
  | cons c cs => exact List.dropWhile_cons_of_neg (by simp [h c rfl])

theorem trim_of_noOuterBlank {cs : List Char} (h : noOuterBlank cs) : trim cs = cs := by
  obtain ⟨hhead, hlast⟩ := h
  rw [trim, dropWhile_isBlank_of_head hhead, dropWhile_isBlank_of_head (by simpa using hlast), List.reverse_reverse]

/-- A blank in front does not matter. -/
theorem trim_space_cons (cs : List Char) : trim (' ' :: cs) = trim cs := rfl

/-! ### Separators -/

theorem splitAtChar_append {sep : Char} {cs : List Char} (h : ∀ c ∈ cs, c ≠ sep) (rest : List Char) :
    splitAtChar sep (cs ++ sep :: rest) = cs :: splitAtChar sep rest := by
  induction cs with
  | nil => simp [splitAtChar]
  | cons c cs ih =>
    obtain ⟨hc, hcs⟩ := List.forall_mem_cons.1 h
    simp [splitAtChar, hc, ih hcs]

theorem splitAtChar_of_forall_ne {sep : Char} {cs : List Char} (h : ∀ c ∈ cs, c ≠ sep) :
    splitAtChar sep cs = [cs] := by
  induction cs with
  | nil => rfl
  | cons c cs ih =>
    obtain ⟨hc, hcs⟩ := List.forall_mem_cons.1 h
    simp [splitAtChar, hc, ih hcs]

/-! ### Operands -/

theorem parseOperand_space_showByte (b : Byte) : parseOperand (' ' :: showByte b) = .ok b := by
  have hrange : wellFormedOperand b.toNat = true := decide_eq_true b.isLt
  rw [parseOperand, trim_space_cons, trim_of_noOuterBlank (noOuterBlank_showByte b), numberValue_showByte]
  simp [hrange]

/-- No comma stands inside an operand. -/
theorem ne_comma_of_mem_space_showByte (b : Byte) : ∀ c ∈ ' ' :: showByte b, c ≠ ',' := by
  refine List.forall_mem_cons.2 ⟨by decide, ?_⟩
  rintro c hc rfl
  exact absurd (isOperandChar_of_mem_showByte hc) (by decide)

/-- A line with an operand behind its mnemonic is not read as one without. -/
theorem parseOperands_space_cons {cs : List Char} (hne : cs ≠ []) (h : noOuterBlank cs) :
    parseOperands (' ' :: cs) = parseParts (splitAtChar ',' (' ' :: cs)) := by
  rw [parseOperands, trim_space_cons, trim_of_noOuterBlank h, if_neg hne]

theorem parseOperands_one (b : Byte) : parseOperands (' ' :: showByte b) = .ok [b] := by
  rw [parseOperands_space_cons (showByte_ne_nil b) (noOuterBlank_showByte b),
    splitAtChar_of_forall_ne (ne_comma_of_mem_space_showByte b)]
  simp [parseParts, parseOperand_space_showByte]

theorem parseOperands_two (p i : Byte) :
    parseOperands (' ' :: (showByte p ++ ',' :: ' ' :: showByte i)) = .ok [p, i] := by
  have hne : showByte p ++ ',' :: ' ' :: showByte i ≠ [] := List.append_ne_nil_of_left_ne_nil (showByte_ne_nil p) _
  have hhead : ∀ c ∈ (showByte p ++ [',', ' ']).head?, isBlank c = false := by
    simp [showByte, isBlank]
  have hblank : noOuterBlank (showByte p ++ ',' :: ' ' :: showByte i) := by
    simpa using noOuterBlank_append_showByte (List.append_ne_nil_of_left_ne_nil (showByte_ne_nil p) _) hhead i
  rw [parseOperands_space_cons hne hblank, ← List.cons_append, splitAtChar_append (ne_comma_of_mem_space_showByte p),
    splitAtChar_of_forall_ne (ne_comma_of_mem_space_showByte i)]
  simp [parseParts, parseOperand_space_showByte]

/-! ### Lines -/

/-- A character of a listed line: it neither ends the line nor starts a comment. -/
def isLineChar (c : Char) : Bool := c != '\n' && c != ';'

theorem all_isLineChar_showByte (b : Byte) : (showByte b).all isLineChar = true := by
  refine List.all_eq_true.2 fun c hc => ?_
  have hoperand := isOperandChar_of_mem_showByte hc
  simp only [isOperandChar, Bool.and_eq_true] at hoperand
  obtain ⟨⟨⟨-, hline⟩, -⟩, hcomment⟩ := hoperand
  rw [isLineChar, hline, hcomment, Bool.and_self]

theorem showInstr_update (b : Byte) : showInstr (.update b) = "UPDATE ".toList ++ showByte b := rfl

theorem showInstr_construct (p i : Byte) :
    showInstr (.construct p i) = "CONSTRUCT ".toList ++ showByte p ++ ", ".toList ++ showByte i := rfl

theorem all_isLineChar_showInstr (i : Instr) : (showInstr i).all isLineChar = true := by
  cases i with
  | result => rfl
  | update b =>
    have hname : "UPDATE ".toList.all isLineChar = true := rfl
    rw [showInstr_update, List.all_append, hname, all_isLineChar_showByte, Bool.and_self]
  | reset => rfl
  | construct p j =>
    have hname : "CONSTRUCT ".toList.all isLineChar = true := rfl
    have hcomma : ", ".toList.all isLineChar = true := rfl
    simp only [showInstr_construct, List.all_append, hname, hcomma, all_isLineChar_showByte, Bool.and_self]

theorem ne_newline_of_mem_showInstr (i : Instr) : ∀ c ∈ showInstr i, c ≠ '\n' := by
  rintro c hc rfl
  exact absurd (List.all_eq_true.1 (all_isLineChar_showInstr i) _ hc) (by decide)

theorem ne_comment_of_mem_showInstr (i : Instr) : ∀ c ∈ showInstr i, c ≠ ';' := by
  rintro c hc rfl
  exact absurd (List.all_eq_true.1 (all_isLineChar_showInstr i) _ hc) (by decide)

theorem takeWhile_ne_comment {line : List Char} (h : ∀ c ∈ line, c ≠ ';') : line.takeWhile (· != ';') = line :=
  List.takeWhile_eq_self_iff.2 fun c hc => by simpa using h c hc

/-- The mnemonic and what stands behind the blank. -/
theorem showInstr_update_eq_mnemonic_append (b : Byte) :
    showInstr (.update b) = "UPDATE".toList ++ ' ' :: showByte b := by
  simp [showInstr_update]

theorem showInstr_construct_eq_mnemonic_append (p i : Byte) :
    showInstr (.construct p i) = "CONSTRUCT".toList ++ ' ' :: (showByte p ++ ',' :: ' ' :: showByte i) := by
  simp [showInstr_construct]

theorem noOuterBlank_showInstr_update (b : Byte) : noOuterBlank (showInstr (.update b)) := by
  have hhead : ∀ c ∈ "UPDATE ".toList.head?, isBlank c = false := by simp [isBlank]
  exact noOuterBlank_append_showByte (by simp) hhead b

theorem noOuterBlank_showInstr_construct (p i : Byte) : noOuterBlank (showInstr (.construct p i)) := by
  have hhead : ∀ c ∈ ("CONSTRUCT ".toList ++ showByte p ++ ", ".toList).head?, isBlank c = false := by simp [isBlank]
  exact noOuterBlank_append_showByte (by simp) hhead i

/-- A line that is a mnemonic, a blank and the operands, with no comment and no blanks at its ends. -/
theorem assembleLine_of_operands {name args : List Char} {ops : List Byte}
    (hname : ∀ c ∈ name, (! isBlank c) = true) (hblank : noOuterBlank (name ++ ' ' :: args))
    (hcomment : ∀ c ∈ name ++ ' ' :: args, c ≠ ';') (hops : parseOperands (' ' :: args) = .ok ops) :
    assembleLine (name ++ ' ' :: args) = commandsOf name ops := by
  have htake : (name ++ ' ' :: args).takeWhile (! isBlank ·) = name := by
    rw [List.takeWhile_append_of_pos hname, List.takeWhile_cons_of_neg (by decide), List.append_nil]
  have hdrop : (name ++ ' ' :: args).dropWhile (! isBlank ·) = ' ' :: args := by
    rw [List.dropWhile_append_of_pos hname, List.dropWhile_cons_of_neg (by decide)]
  rw [assembleLine, takeWhile_ne_comment hcomment, trim_of_noOuterBlank hblank]
  simp [htake, hdrop, hops]

theorem assembleLine_showInstr (i : Instr) : assembleLine (showInstr i) = .ok [i] := by
  have hcomment := ne_comment_of_mem_showInstr i
  cases i with
  | result => rfl
  | reset => rfl
  | update b =>
    have hblank := noOuterBlank_showInstr_update b
    rw [showInstr_update_eq_mnemonic_append] at hcomment hblank ⊢
    rw [assembleLine_of_operands (by simp [isBlank]) hblank hcomment (parseOperands_one b)]
    rfl
  | construct p j =>
    have hblank := noOuterBlank_showInstr_construct p j
    rw [showInstr_construct_eq_mnemonic_append] at hcomment hblank ⊢
    rw [assembleLine_of_operands (by simp [isBlank]) hblank hcomment (parseOperands_two p j)]
    rfl

/-! ### Programs -/

theorem assembleLines_cons_of_ok {line : List Char} {lines : List (List Char)} {is rest : List Instr}
    (hline : assembleLine line = .ok is) (hlines : assembleLines lines = .ok rest) :
    assembleLines (line :: lines) = .ok (is ++ rest) := by
  rw [assembleLines, hline, hlines]

/-- The lines of a listing are the lines of its commands, with an empty one behind the last line break. -/
theorem assemble_listing (is : List Instr) : assemble (listing is) = .ok is := by
  induction is with
  | nil => rfl
  | cons i is ih =>
    rw [assemble, listing, splitAtChar_append (ne_newline_of_mem_showInstr i)]
    exact assembleLines_cons_of_ok (assembleLine_showInstr i) ih

/-! ### The statements -/

/-- Settles O8, by induction on the program. -/
theorem assemblerReadsEveryListing : Obligations.AssemblerReadsEveryListing := by
  unfold Obligations.AssemblerReadsEveryListing
  exact fun is => ⟨assemble_listing is, assembleWords_of_assemble (assemble_listing is)⟩

/-- Settles O7: the assembler is evaluated on each of the seven texts. -/
theorem assemblerReadsTheSyntax : Obligations.AssemblerReadsTheSyntax := by
  unfold Obligations.AssemblerReadsTheSyntax
  exact ⟨rfl, rfl, rfl, rfl, rfl, rfl, rfl⟩

end Sys2Proof.Machine
end
